-- ==== Sys2Proof/Word.lean ====
section
/-! DEFINITION. The two bit-vector types of FTC: the byte and the 32-bit word. -/

namespace Sys2Proof

/-- The unit of every storage element, wire and payload (20_memory.md R51). -/
abbrev Byte := BitVec 8

/-- A command word (30_encoding.md R71) or a response value (R79). -/
abbrev Word := BitVec 32

end Sys2Proof
end

