-- ==== Sys2Proof/Config.lean ====
section
/-! DEFINITION. The parameters of FTC (00_scope.md R9 to R14, 10_state.md R40) and the model's one free value. The
functions of the parameters that a test could show wrong stand in Sys2Proof/Machine/Bringup.lean and Codec.lean. -/

namespace Sys2Proof

/-- One entry of the Channel Set (00_scope.md R9, R14): its kind, and for a wireless channel the desired baud rate, an
unsigned 32-bit integer. A wired channel uses no rate, so it has none. -/
inductive ChannelSpec where
  | wired
  | wireless (desiredBaud : BitVec 32)
deriving DecidableEq, Repr

/-- The parameters of one FTC (10_state.md R40). NCH is `channels.length` and KIND[ch] the constructor of entry ch;
the order of the list is the priority order (10_state.md R35). -/
structure Config where
  /-- The Channel Set: NCH, KIND[] and DESIRED_BAUD[] (00_scope.md R9, R14). -/
  channels : List ChannelSpec
  /-- N_MAX, the largest payload length, which is also DEC_CAP (00_scope.md R11). -/
  nMax : Nat
  /-- RX_DEPTH, the capacity of each receive queue (00_scope.md R12). -/
  rxDepth : Nat
  /-- BAUD_CMD (00_scope.md R13). -/
  baudCmd : List Byte
  /-- SYM[0..7] (00_scope.md R13). -/
  sym : Vector (List Byte) 8
  /-- MODE_CMD (00_scope.md R13). -/
  modeCmd : List Byte
deriving DecidableEq, Repr

/-- A byte string of the configuration vocabulary holds neither 0x0D nor 0x0A (00_scope.md R13). -/
abbrev Config.LineText (bs : List Byte) : Prop := ∀ b ∈ bs, b ≠ 0x0D#8 ∧ b ≠ 0x0A#8

/-- The ranges of 00_scope.md R9, R11, R12 and R13. -/
structure Config.Valid (c : Config) : Prop where
  nch : 1 ≤ c.channels.length ∧ c.channels.length ≤ 16
  nMax : 1 ≤ c.nMax ∧ c.nMax ≤ 65535
  rxDepth : 1 ≤ c.rxDepth
  baudCmd : Config.LineText c.baudCmd
  sym : ∀ bs ∈ c.sym.toList, Config.LineText bs
  modeCmd : Config.LineText c.modeCmd

/-- FREE VALUE (DESIGN CHOICE, log 7): the value v0 that POLL answers when it delivered `n` frames and `n` does not fit the
32 bits of v0; `k` is the number of responses before it. 43_mux.md R213 gives v0 = n and 30_encoding.md R79 gives v0
32 bits; the spec states no value for a larger n. -/
opaque Config.unstatedPollCount (n k : Nat) : Word

end Sys2Proof
end

