-- ==== Sys2Proof/Machine/Channel.lean ====
section
/-! DEFINITION. The data of one channel: the decoder (10_state.md R23 to R28), the adapter with the bring-up state of a
wireless channel (R30, R31, R37), the receive queue and the two output traces (R32 to R34). Types only. -/

namespace Sys2Proof.Machine

open Sys2Proof

/-- PHASE of a decoder (10_state.md R23). -/
inductive Phase where
  /-- Awaiting the first marker of a frame. -/
  | idle
  /-- Awaiting the next marker within a frame. -/
  | marker
  /-- Inside a run. -/
  | run
  /-- Discarding bytes until the next delimiter after an overflow. -/
  | hunt
deriving DecidableEq, Repr

/-- DEC[ch], the decoder state of a channel. LEN is `buf.length` and is not stored (10_state.md R24). -/
structure Decoder where
  /-- PHASE (10_state.md R23). -/
  phase : Phase
  /-- BUF, decoded payload bytes (10_state.md R24). -/
  buf : List Byte
  /-- REM, the bytes remaining in the run: a natural number (10_state.md R25; log 11). -/
  rem : Nat
  /-- FULL: the current run's marker was 0xFF (10_state.md R26). -/
  full : Bool
  /-- ZP: a completed run owes an implicit zero (10_state.md R27). -/
  zp : Bool
  /-- READY: a completed frame is held (10_state.md R28). -/
  ready : Bool
deriving DecidableEq, Repr

/-- The Connection State (10_state.md R30, 42_bringup.md R180). -/
inductive ConnState where
  | initial | matchCr1 | matchLf1 | matchC | matchO | matchN | matchCr2 | connected
deriving DecidableEq, Repr

/-- SEL, an index into the rate table (10_state.md R31). -/
abbrev Selector := Fin 8

/-- The adapter of a channel (41_channel.md R151). Its constructor is KIND[ch]; CS[ch] and SEL[ch] exist on a wireless
channel only (10_state.md R30, R31; log 10). -/
inductive Adapter where
  | wired
  | wireless (cs : ConnState) (sel : Selector)
deriving DecidableEq, Repr

/-- Everything the record S of 10_state.md R22 holds for one channel. -/
structure Channel where
  /-- DEC[ch]. -/
  dec : Decoder
  /-- KIND[ch], and CS[ch] and SEL[ch] of a wireless channel. -/
  adapter : Adapter
  /-- RXQ[ch], head first (10_state.md R32). -/
  rxq : List Byte
  /-- TXQ[ch], the transmit trace, oldest first (10_state.md R33). -/
  txq : List Byte
  /-- WRQ[ch], the write-request trace, oldest first (10_state.md R34). -/
  wrq : List (List Byte)
deriving DecidableEq, Repr

end Sys2Proof.Machine
end

