-- ==== Sys2Proof/Machine/Codec.lean ====
section
/-! DEFINITION. The frame codec (40_codec.md): the encoder (R105), the streaming decoder step (R109 to R117) and the
release (R118). -/

namespace Sys2Proof.Machine

open Sys2Proof

/-! Constants and sizes. -/

/-- The delimiter (40_codec.md R100). -/
def delimiter : Byte := 0x00

/-- The maximum number of data bytes in a run (40_codec.md R103). -/
def maxRun : Nat := 254

/-- The full-run marker (40_codec.md R102). -/
def fullMarker : Byte := 0xFF

/-- DEC_CAP, the capacity of a decoder's buffer, which is N_MAX (00_scope.md R11). -/
def decCap (cfg : Config) : Nat := cfg.nMax

/-- The bound of 40_codec.md R107 on the length of the frame of an n-byte payload. -/
def frameBound (n : Nat) : Nat := n + 1 + max 1 ((n + 253) / 254)

/-- ENC_MAX (00_scope.md R11, 40_codec.md R107). -/
def encMax (cfg : Config) : Nat := frameBound cfg.nMax

/-! The encoder. -/

/-- A run with its marker, the run's length + 1; a full run of 254 bytes has the marker 0xFF (40_codec.md R105). -/
def markedRun (run : List Byte) : List Byte := BitVec.ofNat 8 (run.length + 1) :: run

/-- The loop of 40_codec.md R105: what Encode still emits, `run` and `endedFull` being the loop's variables and the
last argument the payload bytes not yet read. -/
def encodeFrom (run : List Byte) (endedFull : Bool) : List Byte → List Byte
  | [] => if endedFull then [delimiter] else markedRun run ++ [delimiter]
  | b :: rest =>
    if b = delimiter then markedRun run ++ encodeFrom [] false rest
    else if (run ++ [b]).length = maxRun then fullMarker :: (run ++ [b]) ++ encodeFrom [] true rest
    else encodeFrom (run ++ [b]) false rest

/-- `Encode(P)` (40_codec.md R105). -/
def encodeFrame (payload : List Byte) : List Byte := encodeFrom [] false payload

/-! The decoder step. -/

/-- The decode result codes (30_encoding.md R81). -/
inductive DecodeCode where
  | pending | complete | malformed
deriving DecidableEq, Repr

/-- The numeric value of a decode result code (30_encoding.md R81). -/
def DecodeCode.value : DecodeCode → Word
  | .pending => 0
  | .complete => 1
  | .malformed => 2

/-- The decoder after reset (70_reset_and_hazards.md R261). -/
def Decoder.reset : Decoder := ⟨.idle, [], 0, false, false, false⟩

/-- StartMarker(d, M), for a nonzero M (40_codec.md R110). -/
def Decoder.startMarker (d : Decoder) (m : Byte) : Decoder :=
  if m.toNat - 1 = 0 then
    { d with rem := m.toNat - 1, full := m == fullMarker, zp := true, phase := .marker }
  else
    { d with rem := m.toNat - 1, full := m == fullMarker, phase := .run }

/-- Discard(d, ph) (40_codec.md R111). -/
def Decoder.discard (d : Decoder) (ph : Phase) : Decoder :=
  { d with buf := [], rem := 0, full := false, zp := false, phase := ph }

/-- DecStep in phase HUNT (40_codec.md R112). -/
def Decoder.stepHunt (d : Decoder) (b : Byte) : Decoder × DecodeCode :=
  if b = delimiter then ({ d with phase := .idle }, .pending) else (d, .pending)

/-- DecStep in phase IDLE (40_codec.md R113). -/
def Decoder.stepIdle (d : Decoder) (b : Byte) : Decoder × DecodeCode :=
  if b = delimiter then (d, .pending) else (d.startMarker b, .pending)

/-- DecStep in phase MARKER (40_codec.md R114 for the delimiter, R115 for the next marker). -/
def Decoder.stepMarker (cap : Nat) (d : Decoder) (b : Byte) : Decoder × DecodeCode :=
  if b = delimiter then
    ({ d with zp := false, full := false, rem := 0, phase := .idle, ready := true }, .complete)
  else if d.zp then
    if d.buf.length = cap then (d.discard .hunt, .malformed)
    else (({ d with buf := d.buf ++ [delimiter], zp := false } : Decoder).startMarker b, .pending)
  else (d.startMarker b, .pending)

/-- DecStep in phase RUN (40_codec.md R116 for the delimiter, R117 for a data byte). -/
def Decoder.stepRun (cap : Nat) (d : Decoder) (b : Byte) : Decoder × DecodeCode :=
  if b = delimiter then (d.discard .idle, .malformed)
  else if d.buf.length = cap then (d.discard .hunt, .malformed)
  else if d.rem - 1 = 0 then
    ({ d with buf := d.buf ++ [b], rem := d.rem - 1, zp := !d.full, phase := .marker }, .pending)
  else ({ d with buf := d.buf ++ [b], rem := d.rem - 1 }, .pending)

/-- DecStep(d, b) with DEC_CAP = cap (40_codec.md R109 to R117). The spec defines it for READY = 0 only, and every command
calls it so (R109); what this function answers for READY = 1 is no step of the machine (log 9). -/
def Decoder.step (cap : Nat) (d : Decoder) (b : Byte) : Decoder × DecodeCode :=
  match d.phase with
  | .hunt => d.stepHunt b
  | .idle => d.stepIdle b
  | .marker => d.stepMarker cap b
  | .run => d.stepRun cap b

/-- Release(d) (40_codec.md R118). -/
def Decoder.release (d : Decoder) : Decoder :=
  if d.ready then { d with buf := [], ready := false } else d

end Sys2Proof.Machine
end

