-- ==== Sys2Proof/Machine/Bringup.lean ====
section
/-! DEFINITION. The wireless bring-up (42_bringup.md): the rate table, the configuration lines, construction and the
matcher step. -/

namespace Sys2Proof.Machine

open Sys2Proof

/-- The eight supported rates, in selector order (42_bringup.md R182). -/
def rateTable : List Nat := [9600, 19200, 38400, 57600, 115200, 230400, 460800, 921600]

/-- Resolve(r): the index of the rate, 0 where the table does not hold it (42_bringup.md R183). -/
def resolve (r : BitVec 32) : Selector :=
  match rateTable.findIdx? (· == r.toNat) with
  | some i => Fin.ofNat 8 i
  | none => 0

/-- CR LF, the end of a configuration line (42_bringup.md R184). -/
def crlf : List Byte := [0x0D, 0x0A]

/-- ConfigLines(s) (42_bringup.md R184). -/
def configLines (cfg : Config) (sel : Selector) : List Byte :=
  cfg.baudCmd ++ cfg.sym[sel] ++ crlf ++ cfg.modeCmd ++ crlf

/-- SEQ, the confirmation sequence CR LF 'C' 'O' 'N' CR LF (42_bringup.md R181). -/
def confirmation : List Byte := [0x0D, 0x0A, 0x43, 0x4F, 0x4E, 0x0D, 0x0A]

/-- The ordinal of a Connection State (10_state.md R30, 42_bringup.md R180). -/
def ConnState.ordinal : ConnState → Nat
  | .initial => 0
  | .matchCr1 => 1
  | .matchLf1 => 2
  | .matchC => 3
  | .matchO => 4
  | .matchN => 5
  | .matchCr2 => 6
  | .connected => 7

/-- The Connection State after one more matched byte. CONNECTED is terminal (42_bringup.md R180, R190). -/
def ConnState.next : ConnState → ConnState
  | .initial => .matchCr1
  | .matchCr1 => .matchLf1
  | .matchLf1 => .matchC
  | .matchC => .matchO
  | .matchO => .matchN
  | .matchN => .matchCr2
  | .matchCr2 => .connected
  | .connected => .connected

/-- Match(k, b) (42_bringup.md R187 to R190). No rule runs the matcher in CONNECTED; the state is absorbing (R190). -/
def ConnState.matchByte (cs : ConnState) (b : Byte) : ConnState :=
  if cs = .connected then .connected
  else if confirmation[cs.ordinal]? = some b then cs.next
  else if cs = .matchCr2 then .matchCr2
  else .initial

/-- The adapter that construction makes (42_bringup.md R185, 70_reset_and_hazards.md R261). -/
def Adapter.construct : ChannelSpec → Adapter
  | .wired => .wired
  | .wireless desiredBaud => .wireless .initial (resolve desiredBaud)

/-- What construction transmits: the configuration lines on a wireless channel, nothing on a wired one
(42_bringup.md R185, 70_reset_and_hazards.md R261). -/
def Adapter.constructTx (cfg : Config) : Adapter → List Byte
  | .wired => []
  | .wireless _ sel => configLines cfg sel

/-- One channel after the reset sequence (70_reset_and_hazards.md R261, R262). -/
def Channel.construct (cfg : Config) (spec : ChannelSpec) : Channel :=
  { dec := Decoder.reset
    adapter := Adapter.construct spec
    rxq := []
    txq := (Adapter.construct spec).constructTx cfg
    wrq := [] }

/-- The reference configuration of 00_scope.md R10 (channel 0 wired, channel 1 wireless) with the example instance of
95_test_vectors.md (N_MAX = 600, DESIRED_BAUD[1] = 115200, BAUD_CMD = "AT+BAUD", SYM[i] the digit i, MODE_CMD = "AT+MODE1")
and RX_DEPTH = 1024. DESIGN CHOICE, log 2: unsafe, the spec leaves these parameters open and the instance is no real
module's. No statement rests on it. -/
def referenceConfig : Config :=
  { channels := [.wired, .wireless 115200]
    nMax := 600
    rxDepth := 1024
    baudCmd := [0x41, 0x54, 0x2B, 0x42, 0x41, 0x55, 0x44]
    sym := #v[[0x30], [0x31], [0x32], [0x33], [0x34], [0x35], [0x36], [0x37]]
    modeCmd := [0x41, 0x54, 0x2B, 0x4D, 0x4F, 0x44, 0x45, 0x31] }

end Sys2Proof.Machine
end

