-- ==== Sys2Proof/Syntax.lean ====
section
/-! DEFINITION. The ten commands of FTC (30_encoding.md R75), one constructor for each row of spec/opcode_table.json,
with the operands that R72 assembles from the command word and the data phase. -/

namespace Sys2Proof

/-- The channel operand: the four bits of CH read as a number 0..15 (30_encoding.md R71, R72). Whether the
channel exists is checked by the command itself (R73). -/
abbrev ChannelIx := Fin 16

/-- The commands of FTC (30_encoding.md R75). A data phase stands as the list of its bytes, so that IMM, its length
(R74), is not stored beside it. -/
inductive Instr where
  /-- ENCODE: encode a payload (40_codec.md R108). -/
  | encode (payload : List Byte)
  /-- DEC_APPEND: feed one byte to a channel's decoder (40_codec.md R119). -/
  | decAppend (ch : ChannelIx) (b : Byte)
  /-- DEC_RELEASE: consume a channel's completed frame (40_codec.md R120). -/
  | decRelease (ch : ChannelIx)
  /-- TRY_READ: drain one frame from a channel (41_channel.md R155). -/
  | tryRead (ch : ChannelIx)
  /-- FRAME_READ: read the current view (41_channel.md R156). -/
  | frameRead (ch : ChannelIx)
  /-- WRITE_RAW: hand raw bytes to one channel's adapter (41_channel.md R158). -/
  | writeRaw (ch : ChannelIx) (bs : List Byte)
  /-- IS_CONNECTED: report connectivity (41_channel.md R159). -/
  | isConnected (ch : ChannelIx)
  /-- STATUS: read a channel's status word (41_channel.md R160). -/
  | status (ch : ChannelIx)
  /-- POLL: drain every channel in priority order (43_mux.md R213). -/
  | poll
  /-- WRITE: broadcast raw bytes to every channel (43_mux.md R215). -/
  | write (bs : List Byte)
deriving DecidableEq, Repr

end Sys2Proof
end

