-- ==== Sys2Proof/WellFormed.lean ====
section
/-! DEFINITION. Which commands the command port can carry: a data phase holds at most 65535 bytes. The other bounds
of 30_encoding.md R72 (a channel index 0..15, a byte operand 0..255) are held by the types of `Instr`. -/

namespace Sys2Proof

/-- The longest data phase: IMM has 16 bits (30_encoding.md R70, R71, R74). -/
def maxDataLength : Nat := 65535

/-- A command that some pair (W, D) of 30_encoding.md R70 stands for. -/
def Instr.wellFormed : Instr → Bool
  | .encode payload => payload.length ≤ maxDataLength
  | .decAppend _ _ => true
  | .decRelease _ => true
  | .tryRead _ => true
  | .frameRead _ => true
  | .writeRaw _ bs => bs.length ≤ maxDataLength
  | .isConnected _ => true
  | .status _ => true
  | .poll => true
  | .write bs => bs.length ≤ maxDataLength

/-- `wellFormed` as a proposition. -/
abbrev Instr.WellFormed (i : Instr) : Prop := i.wellFormed = true

end Sys2Proof
end

