-- ==== Sys2Proof/Decode.lean ====
section
/-! DEFINITION. The command word, decoding and encoding (30_encoding.md R70 to R78), and the byte order of a serialised
command (20_memory.md R53, 30_encoding.md R82). Decoding is total and refuses by name. -/

namespace Sys2Proof

/-- A command as the port delivers it: the pair (W, D) (30_encoding.md R70). -/
structure Command where
  word : Word
  data : List Byte
deriving DecidableEq, Repr

/-! The fields of the command word (30_encoding.md R71). -/

/-- OP = W[7:0]. -/
def opField (w : Word) : BitVec 8 := w.extractLsb' 0 8

/-- CH = W[11:8]. -/
def chField (w : Word) : BitVec 4 := w.extractLsb' 8 4

/-- RSV = W[15:12]. -/
def rsvField (w : Word) : BitVec 4 := w.extractLsb' 12 4

/-- IMM = W[31:16]. -/
def immField (w : Word) : BitVec 16 := w.extractLsb' 16 16

/-- CH zero-extended: the channel it names (30_encoding.md R72). -/
def channelOperand (w : Word) : ChannelIx := ⟨(chField w).toNat, (chField w).isLt⟩

/-- The byte operand of DEC_APPEND, IMM[7:0] (30_encoding.md R72). -/
def byteOperand (w : Word) : Byte := (immField w).extractLsb' 0 8

/-! The opcode map (30_encoding.md R75, R76). -/

/-- The ten mnemonics of 30_encoding.md R75. -/
inductive Op where
  | encode | decAppend | decRelease | tryRead | frameRead | writeRaw | isConnected | status | poll | write
deriving DecidableEq, Repr

/-- One row of the match and mask table (30_encoding.md R76). -/
structure OpRow where
  op : Op
  pattern : Word
  mask : Word
deriving DecidableEq, Repr

/-- The match and mask table (30_encoding.md R76). -/
def opTable : List OpRow :=
  [ ⟨.encode,      0x00000001#32, 0x0000FFFF#32⟩,
    ⟨.decAppend,   0x00000002#32, 0xFF00F0FF#32⟩,
    ⟨.decRelease,  0x00000003#32, 0xFFFFF0FF#32⟩,
    ⟨.tryRead,     0x00000010#32, 0xFFFFF0FF#32⟩,
    ⟨.frameRead,   0x00000011#32, 0xFFFFF0FF#32⟩,
    ⟨.writeRaw,    0x00000012#32, 0x0000F0FF#32⟩,
    ⟨.isConnected, 0x00000013#32, 0xFFFFF0FF#32⟩,
    ⟨.status,      0x00000014#32, 0xFFFFF0FF#32⟩,
    ⟨.poll,        0x00000020#32, 0xFFFFFFFF#32⟩,
    ⟨.write,       0x00000021#32, 0x0000FFFF#32⟩ ]

/-- A word selects a row when `(W & mask) = match` (30_encoding.md R76). -/
def OpRow.selects (r : OpRow) (w : Word) : Bool := w &&& r.mask == r.pattern

/-- The row a word selects, if any (30_encoding.md R76, R77). -/
def selectOp (w : Word) : Option Op := (opTable.find? (·.selects w)).map (·.op)

/-- How many bytes the data phase of a command must hold (30_encoding.md R74). -/
def Op.dataLength (op : Op) (w : Word) : Nat :=
  match op with
  | .encode | .writeRaw | .write => (immField w).toNat
  | .decAppend | .decRelease | .tryRead | .frameRead | .isConnected | .status | .poll => 0

/-- Why a pair (W, D) is illegal (60_exceptions.md R231). -/
inductive Illegal where
  /-- R231 (a): W matches no row of 30_encoding.md R76. -/
  | unmatchedWord
  /-- R231 (b): the data phase breaks 30_encoding.md R74. -/
  | wrongDataLength
deriving DecidableEq, Repr

/-- The command a row stands for, with its operands (30_encoding.md R72). -/
def Op.assemble (op : Op) (w : Word) (data : List Byte) : Instr :=
  match op with
  | .encode => .encode data
  | .decAppend => .decAppend (channelOperand w) (byteOperand w)
  | .decRelease => .decRelease (channelOperand w)
  | .tryRead => .tryRead (channelOperand w)
  | .frameRead => .frameRead (channelOperand w)
  | .writeRaw => .writeRaw (channelOperand w) data
  | .isConnected => .isConnected (channelOperand w)
  | .status => .status (channelOperand w)
  | .poll => .poll
  | .write => .write data

/-- Decoding, total over every pair (W, D) (30_encoding.md R78). A data phase of more than 65535 bytes, which the port
never delivers (R70), equals no IMM and is refused too (log 8). -/
def decode (c : Command) : Except Illegal Instr :=
  match selectOp c.word with
  | none => .error .unmatchedWord
  | some op =>
    if c.data.length = op.dataLength c.word then .ok (op.assemble c.word c.data)
    else .error .wrongDataLength

/-! The encoder (30_encoding.md R83, column W). -/

/-- The opcode values of 30_encoding.md R75. -/
def Op.code : Op → BitVec 8
  | .encode => 0x01
  | .decAppend => 0x02
  | .decRelease => 0x03
  | .tryRead => 0x10
  | .frameRead => 0x11
  | .writeRaw => 0x12
  | .isConnected => 0x13
  | .status => 0x14
  | .poll => 0x20
  | .write => 0x21

/-- The mnemonic of a command. -/
def Instr.op : Instr → Op
  | .encode _ => .encode
  | .decAppend _ _ => .decAppend
  | .decRelease _ => .decRelease
  | .tryRead _ => .tryRead
  | .frameRead _ => .frameRead
  | .writeRaw _ _ => .writeRaw
  | .isConnected _ => .isConnected
  | .status _ => .status
  | .poll => .poll
  | .write _ => .write

/-- The channel operand of a command, 0 where it has none (30_encoding.md R73). -/
def Instr.chBits : Instr → BitVec 4
  | .encode _ => 0
  | .decAppend ch _ => BitVec.ofFin ch
  | .decRelease ch => BitVec.ofFin ch
  | .tryRead ch => BitVec.ofFin ch
  | .frameRead ch => BitVec.ofFin ch
  | .writeRaw ch _ => BitVec.ofFin ch
  | .isConnected ch => BitVec.ofFin ch
  | .status ch => BitVec.ofFin ch
  | .poll => 0
  | .write _ => 0

/-- The data phase of a command (30_encoding.md R74). -/
def Instr.data : Instr → List Byte
  | .encode payload => payload
  | .decAppend _ _ => []
  | .decRelease _ => []
  | .tryRead _ => []
  | .frameRead _ => []
  | .writeRaw _ bs => bs
  | .isConnected _ => []
  | .status _ => []
  | .poll => []
  | .write bs => bs

/-- IMM of a command: the data phase's length, the byte operand, or 0 (30_encoding.md R72, R75). -/
def Instr.immBits : Instr → BitVec 16
  | .encode payload => BitVec.ofNat 16 payload.length
  | .decAppend _ b => b.setWidth 16
  | .decRelease _ => 0
  | .tryRead _ => 0
  | .frameRead _ => 0
  | .writeRaw _ bs => BitVec.ofNat 16 bs.length
  | .isConnected _ => 0
  | .status _ => 0
  | .poll => 0
  | .write bs => BitVec.ofNat 16 bs.length

/-- A command word from its fields, most significant field first, RSV being 0 (30_encoding.md R71). -/
def packWord (imm : BitVec 16) (ch : BitVec 4) (op : BitVec 8) : Word := imm ++ (0#4 ++ (ch ++ op))

/-- The pair (W, D) of a well-formed command (30_encoding.md R70, R83). -/
def encode (i : Instr) : Command := ⟨packWord i.immBits i.chBits i.op.code, i.data⟩

/-! The serialised command (20_memory.md R53, 30_encoding.md R82). The machine takes commands as pairs; this is for a
transport that carries them as bytes. -/

/-- A 32-bit value as bytes, least significant first (20_memory.md R53, R54). -/
def wordBytes (w : Word) : List Byte :=
  [w.extractLsb' 0 8, w.extractLsb' 8 8, w.extractLsb' 16 8, w.extractLsb' 24 8]

/-- The 32-bit value of four bytes, least significant first (20_memory.md R53). -/
def wordOfBytes (b0 b1 b2 b3 : Byte) : Word := b3 ++ (b2 ++ (b1 ++ b0))

/-- A command as bytes: the word, then the data phase in order (20_memory.md R53). -/
def Command.bytes (c : Command) : List Byte := wordBytes c.word ++ c.data

/-- How many bytes a transport reads after the word: IMM if OP is 0x01, 0x12 or 0x21, else none (30_encoding.md R82).
For an illegal word with another OP the transport cannot tell whether data follows; this reads none (log 14). -/
def dataBytesAfter (w : Word) : Nat :=
  if opField w = 0x01#8 ∨ opField w = 0x12#8 ∨ opField w = 0x21#8 then (immField w).toNat else 0

/-- Reading one command from a byte stream (30_encoding.md R82): the command and the rest of the stream, or none where the
stream ends too early. -/
def readCommand (bs : List Byte) : Option (Command × List Byte) :=
  match bs with
  | b0 :: b1 :: b2 :: b3 :: rest =>
    let w := wordOfBytes b0 b1 b2 b3
    let n := dataBytesAfter w
    if n ≤ rest.length then some (⟨w, rest.take n⟩, rest.drop n) else none
  | _ => none

/-! Table words: an instruction given as one number, bit 0 the least significant bit of the command word, the bits above
`nbits` zero. -/

/-- Byte k of the number. -/
def numberByte (v k : Nat) : Byte := BitVec.ofNat 8 (v >>> (8 * k))

/-- The byte stream of a table word: the four bytes of the command word, then as many data bytes as the word asks for. -/
def tableBytes (nbits w : Nat) : List Byte :=
  let v := w % 2 ^ nbits
  (List.range (4 + dataBytesAfter (BitVec.ofNat 32 v))).map (numberByte v)

/-- The command a table word stands for. -/
def tableCommand (nbits w : Nat) : Command :=
  match readCommand (tableBytes nbits w) with
  | some (c, _) => c
  | none => ⟨BitVec.ofNat 32 (w % 2 ^ nbits), []⟩

/-- The instruction the decoder reads from a table word, none where it refuses it. -/
def decodeTableWord (nbits w : Nat) : Option Instr :=
  match decode (tableCommand nbits w) with
  | .ok i => some i
  | .error _ => none

end Sys2Proof
end

