-- ==== Sys2Proof/Machine/Response.lean ====
section
/-! DEFINITION. The response to a command (30_encoding.md R79, R80). -/

namespace Sys2Proof.Machine

open Sys2Proof

/-- The status of a response (30_encoding.md R80). -/
inductive Status where
  /-- Performed. -/
  | ok
  /-- Malformed command (60_exceptions.md R231). -/
  | errIllegal
  /-- CH >= NCH (60_exceptions.md R232). -/
  | errChannel
  /-- ENCODE payload longer than N_MAX (60_exceptions.md R233). -/
  | errLength
  /-- DEC_APPEND while the decoder holds a completed frame (60_exceptions.md R234). -/
  | errBusy
  /-- FRAME_READ while no view is valid (60_exceptions.md R235). -/
  | errNoFrame
deriving DecidableEq, Repr

/-- The status byte (30_encoding.md R80). -/
def Status.code : Status → Byte
  | .ok => 0x00
  | .errIllegal => 0x01
  | .errChannel => 0x02
  | .errLength => 0x03
  | .errBusy => 0x04
  | .errNoFrame => 0x05

/-- The response `(status, v0, v1, data)` (30_encoding.md R79). -/
structure Response where
  status : Status
  v0 : Word
  v1 : Word
  data : List Byte
deriving DecidableEq, Repr

/-- The response of every status other than OK: v0 = 0, v1 = 0, data = [] (30_encoding.md R79). -/
def Response.error (st : Status) : Response := ⟨st, 0, 0, []⟩

/-- The response of a performed command (30_encoding.md R79). -/
def Response.performed (v0 v1 : Word) (data : List Byte) : Response := ⟨.ok, v0, v1, data⟩

/-- v0 and v1 as a transport sends them, each least significant byte first (20_memory.md R54; log 16). -/
def Response.valueBytes (r : Response) : List Byte × List Byte := (wordBytes r.v0, wordBytes r.v1)

end Sys2Proof.Machine
end

