-- ==== Sys2Proof/Machine/State.lean ====
section
/-! DEFINITION. The state of FTC (10_state.md R22) as plain data, its faults and refusals, and reset
(70_reset_and_hazards.md R261). -/

namespace Sys2Proof.Machine

open Sys2Proof

/-- One entry of DLV: the channel and a copy of the payload (10_state.md R36, 43_mux.md R212). -/
structure Delivery where
  ch : Nat
  payload : List Byte
deriving DecidableEq, Repr

/-- One thing the outside does to FTC, always between commands (00_scope.md R8; log 3). -/
inductive Input where
  /-- The caller issues a command (30_encoding.md R70). -/
  | command (c : Command)
  /-- The link environment of channel ch delivers the byte b (41_channel.md R152). -/
  | rxArrive (ch : Nat) (b : Byte)
  /-- FTC is reset again (70_reset_and_hazards.md R260; log 6). -/
  | reset
deriving DecidableEq, Repr

/-- The state. `chans` and `dlv` are the record S of 10_state.md R22, the number of channel records being NCH. `cfg`, `rsp`
and `inputs` are the model's own: the parameters, which no step changes (log 1), the responses given so far (log 4), and
the inputs still to be taken (log 3). -/
structure State where
  /-- The parameters (10_state.md R40). -/
  cfg : Config
  /-- DEC, CS, SEL, RXQ, TXQ and WRQ of each channel, in priority order (10_state.md R35). -/
  chans : List Channel
  /-- DLV, the delivery trace, oldest first (10_state.md R36). -/
  dlv : List Delivery
  /-- The responses, one per command, oldest first (30_encoding.md R79). -/
  rsp : List Response
  /-- The pending inputs, the next one first (20_memory.md R61). -/
  inputs : List Input
deriving DecidableEq, Repr

/-- FTC has no fault: no condition is fatal or stops the machine (60_exceptions.md R230, R239), so there is no constructor
and nothing raises one. -/
inductive Fault where
deriving DecidableEq, Repr

/-- Why the model refuses a step. -/
inductive Refusal where
  /-- Raised by `exec` for an instruction without a meaning; no arm raises it in this model. Safe: nothing is proved of
  a step that is not taken. -/
  | notModelled (mnemonic : String)
  /-- Raised by `step` when the next input is a byte received on channel `ch` and there is no such channel. No link
  environment exists that could send it (41_channel.md R152; log 5). Safe: nothing is proved of a step that is not taken. -/
  | absentLink (ch : Nat)
deriving DecidableEq, Repr

/-- NCH: the number of channel records (10_state.md R22). -/
def State.nch (s : State) : Nat := s.chans.length

/-- The machine with the parameters `cfg` right after reset (70_reset_and_hazards.md R261, R262): every trace and queue
empty but for the configuration lines that construction sends. -/
def State.resetOf (cfg : Config) : State :=
  { cfg := cfg
    chans := cfg.channels.map (Channel.construct cfg)
    dlv := []
    rsp := []
    inputs := [] }

/-- The machine right after reset, in the reference configuration (00_scope.md R10; DESIGN CHOICE, log 2). -/
def State.reset : State := State.resetOf referenceConfig

end Sys2Proof.Machine
end

