-- ==== Sys2Proof/Machine/Flags.lean ====
section
/-! DEFINITION. The status bits of FTC (10_state.md R37) and the status word (R38). FTC has no condition codes and no
arithmetic flags. -/

namespace Sys2Proof.Machine

open Sys2Proof

/-- CONNECTED(ch): 1 on a wired channel, CS[ch] = CONNECTED on a wireless one (10_state.md R37, 41_channel.md R153). -/
def Adapter.connected : Adapter → Bool
  | .wired => true
  | .wireless cs _ => cs == .connected

/-- CONNECTED(ch) (10_state.md R37). -/
def Channel.connected (c : Channel) : Bool := c.adapter.connected

/-- A flag as one bit. -/
def flagBit (b : Bool) : BitVec 1 := BitVec.ofBool b

/-- A flag as a response value. -/
def flagWord (b : Bool) : Word := if b then 1 else 0

/-- The numeric value of PHASE (10_state.md R23). -/
def Phase.code : Phase → BitVec 2
  | .idle => 0
  | .marker => 1
  | .run => 2
  | .hunt => 3

/-- The KIND field of the status word: 0 wired, 1 wireless (10_state.md R38). -/
def Adapter.kindField : Adapter → BitVec 1
  | .wired => 0
  | .wireless _ _ => 1

/-- The CS field of the status word, 0 on a wired channel (10_state.md R38). -/
def Adapter.csField : Adapter → BitVec 3
  | .wired => 0
  | .wireless cs _ => BitVec.ofNat 3 cs.ordinal

/-- The SEL field of the status word, 0 on a wired channel (10_state.md R38). -/
def Adapter.selField : Adapter → BitVec 3
  | .wired => 0
  | .wireless _ sel => BitVec.ofFin sel

/-- STATUSW(ch), most significant field first (10_state.md R38). REM is at most 254 (R25), so its eight bits hold it
(log 11). -/
def Channel.statusWord (c : Channel) : Word :=
  0#8 ++ (BitVec.ofNat 8 c.dec.rem ++ (0#3 ++ (flagBit c.dec.full ++ (flagBit c.dec.zp ++ (flagBit c.dec.ready ++
    (c.dec.phase.code ++ (c.adapter.selField ++ (c.adapter.csField ++ (flagBit c.connected ++ c.adapter.kindField)))))))))

/-- LEN as a response value (10_state.md R39). LEN is at most 65535 (R24, 00_scope.md R11), so it fits (log 12). -/
def Decoder.lenWord (d : Decoder) : Word := BitVec.ofNat 32 d.buf.length

end Sys2Proof.Machine
end

