-- ==== Sys2Proof/Machine/Ops.lean ====
section
/-! DEFINITION. The named operations that the commands share: responses, the channel records, the receive path
(41_channel.md R152, R154), the adapter write (R157) and the drain of a poll (43_mux.md R211). FTC takes no exception and
returns from none (60_exceptions.md R241, R242); what it has instead, the answer to a command it cannot perform, is the
one operation `State.reject`. -/

namespace Sys2Proof.Machine

open Sys2Proof

/-! Responses. -/

/-- `respond(status, v0, v1, data)` (00_scope.md R17, 30_encoding.md R79): the response joins the trace of responses. -/
def State.respond (s : State) (r : Response) : State := { s with rsp := s.rsp ++ [r] }

/-- A command answered with an error status: nothing but the response changes (60_exceptions.md R230, R236). -/
def State.reject (s : State) (st : Status) : State := s.respond (Response.error st)

/-- A performed command's response (30_encoding.md R79). -/
def State.answer (s : State) (v0 v1 : Word) (data : List Byte) : State := s.respond (Response.performed v0 v1 data)

/-! Channel records. -/

/-- The record of channel ch, if ch < NCH. -/
def State.chan? (s : State) (ch : Nat) : Option Channel := s.chans[ch]?

/-- Channel ch replaced. -/
def State.setChan (s : State) (ch : Nat) (c : Channel) : State := { s with chans := s.chans.set ch c }

/-- `emit DLV(ch, p)` for a list of deliveries (00_scope.md R17, 43_mux.md R212). -/
def State.deliver (s : State) (ds : List Delivery) : State := { s with dlv := s.dlv ++ ds }

/-! The links of one channel. -/

/-- `emit TX(ch, bs)` (00_scope.md R17). -/
def Channel.emitTx (c : Channel) (bs : List Byte) : Channel := { c with txq := c.txq ++ bs }

/-- `emit WRQ(ch, bs)` (00_scope.md R17). -/
def Channel.emitWrq (c : Channel) (bs : List Byte) : Channel := { c with wrq := c.wrq ++ [bs] }

/-- RX_ARRIVE(ch, b): a byte that arrives at a full queue is lost (41_channel.md R152). -/
def Channel.arrive (cfg : Config) (c : Channel) (b : Byte) : Channel :=
  if c.rxq.length < cfg.rxDepth then { c with rxq := c.rxq ++ [b] } else c

/-- AdapterWrite(ch, bs): the request is recorded; the bytes are sent if the adapter is connected and dropped otherwise
(41_channel.md R157). -/
def Channel.adapterWrite (c : Channel) (bs : List Byte) : Channel :=
  if c.connected then (c.emitWrq bs).emitTx bs else c.emitWrq bs

/-! The receive path. -/

/-- The configuration lines that a read call sends first: those of an unconnected wireless channel, else nothing
(42_bringup.md R186). -/
def Adapter.resendTx (cfg : Config) : Adapter → List Byte
  | .wired => []
  | .wireless cs sel => if cs = .connected then [] else configLines cfg sel

/-- The matcher step on an adapter: only a wireless one has a matcher (42_bringup.md R187). -/
def Adapter.matchByte : Adapter → Byte → Adapter
  | .wired, _ => .wired
  | .wireless cs sel, b => .wireless (cs.matchByte b) sel

/-- What the drain loop of TryRead leaves: whether a frame completed, the decoder, the adapter and the bytes that stay
in the receive queue. -/
structure Drained where
  ready : Bool
  dec : Decoder
  adapter : Adapter
  rest : List Byte
deriving DecidableEq, Repr

/-- The loop of TryRead over the receive queue (41_channel.md R154): a byte goes to the matcher of an unconnected channel
and to the decoder of a connected one; the loop ends after the delimiter of the first frame that completes. -/
def drain (cap : Nat) (d : Decoder) (a : Adapter) : List Byte → Drained
  | [] => ⟨false, d, a, []⟩
  | b :: q =>
    if a.connected then
      if (d.step cap b).2 = .complete then ⟨true, (d.step cap b).1, a, q⟩
      else drain cap (d.step cap b).1 a q
    else drain cap d (a.matchByte b) q

/-- What TryRead answers: whether a new frame is ready, and the channel. -/
structure ReadResult where
  ready : Bool
  chan : Channel
deriving DecidableEq, Repr

/-- TryRead(ch): release, resend, drain (41_channel.md R154). -/
def Channel.tryRead (cfg : Config) (c : Channel) : ReadResult :=
  let r := drain (decCap cfg) c.dec.release c.adapter c.rxq
  ⟨r.ready, { c with dec := r.dec, adapter := r.adapter, rxq := r.rest, txq := c.txq ++ c.adapter.resendTx cfg }⟩

/-! The drain of a poll. -/

/-- What polling one channel leaves: the channel and the payloads delivered, in order. -/
structure PollResult where
  chan : Channel
  payloads : List (List Byte)
deriving DecidableEq, Repr

/-- `while TryRead(ch): emit DLV(ch, copy of DEC[ch].BUF)` (43_mux.md R211), with at most `fuel` calls of TryRead. -/
def Channel.pollLoop (cfg : Config) : Nat → Channel → PollResult
  | 0, c => ⟨c, []⟩
  | fuel + 1, c =>
    if (c.tryRead cfg).ready then
      let p := Channel.pollLoop cfg fuel (c.tryRead cfg).chan
      ⟨p.chan, (c.tryRead cfg).chan.dec.buf :: p.payloads⟩
    else ⟨(c.tryRead cfg).chan, []⟩

/-- Polling one channel. A TryRead that answers true has consumed a byte, so |RXQ[ch]| + 1 calls suffice
(43_mux.md R214; Laws/Ops.lean proves that the loop always ends by itself). -/
def Channel.poll (cfg : Config) (c : Channel) : PollResult := Channel.pollLoop cfg (c.rxq.length + 1) c

/-- What polling a list of channels leaves. -/
structure PollAll where
  chans : List Channel
  deliveries : List Delivery
deriving DecidableEq, Repr

/-- Poll() over the channels from index `k` on, in ascending order (43_mux.md R210, R211). -/
def pollFrom (cfg : Config) : Nat → List Channel → PollAll
  | _, [] => ⟨[], []⟩
  | k, c :: cs =>
    let p := c.poll cfg
    let q := pollFrom cfg (k + 1) cs
    ⟨p.chan :: q.chans, p.payloads.map (Delivery.mk k) ++ q.deliveries⟩

/-- The number of frames of a poll as v0 (43_mux.md R213). Where it does not fit 32 bits the spec states no value, and it is
the free value of the configuration (DESIGN CHOICE, log 7). -/
def State.pollCount (s : State) (n : Nat) : Word :=
  if n < 2 ^ 32 then BitVec.ofNat 32 n else Config.unstatedPollCount n s.rsp.length

end Sys2Proof.Machine
end

