-- ==== Sys2Proof/Machine/Operands.lean ====
section
/-! DEFINITION. The operand forms of the commands (30_encoding.md R72, R73): the channel operand, checked against NCH
after the encoding, and the data phase, whose length IMM ENCODE checks against N_MAX. -/

namespace Sys2Proof.Machine

open Sys2Proof

/-- A channel command: ERR_CHANNEL where the channel does not exist, else what the command does with the channel's record
(30_encoding.md R73, 60_exceptions.md R232). -/
def State.onChannel (s : State) (ch : ChannelIx) (perform : Channel → State) : State :=
  match s.chan? ch.val with
  | none => s.reject .errChannel
  | some c => perform c

/-- The payload operand of ENCODE: ERR_LENGTH where it is longer than N_MAX (40_codec.md R108, 60_exceptions.md R233). -/
def State.onPayload (s : State) (payload : List Byte) (perform : State) : State :=
  if s.cfg.nMax < payload.length then s.reject .errLength else perform

/-- A length as a response value. The lengths that rules answer are below 2^32 (log 12). -/
def lengthWord (bs : List Byte) : Word := BitVec.ofNat 32 bs.length

end Sys2Proof.Machine
end

