-- ==== Sys2Proof/Machine/ChannelCommands.lean ====
section
/-! DEFINITION. The channel family: TRY_READ, FRAME_READ, WRITE_RAW, IS_CONNECTED, STATUS (41_channel.md R155 to R160). -/

namespace Sys2Proof.Machine

open Sys2Proof

/-- TRY_READ: drain one frame; v1 is its length when there is one (41_channel.md R155). -/
def execTryRead (ch : ChannelIx) (s : State) : Host.Outcome State Fault Refusal :=
  .next (s.onChannel ch fun c =>
    let r := c.tryRead s.cfg
    (s.setChan ch.val r.chan).answer (flagWord r.ready) (if r.ready then r.chan.dec.lenWord else 0) [])

/-- FRAME_READ: the view, which stays valid (41_channel.md R156). -/
def execFrameRead (ch : ChannelIx) (s : State) : Host.Outcome State Fault Refusal :=
  .next (s.onChannel ch fun c =>
    if c.dec.ready then s.answer c.dec.lenWord 0 c.dec.buf else s.reject .errNoFrame)

/-- WRITE_RAW: one adapter write (41_channel.md R158). -/
def execWriteRaw (ch : ChannelIx) (bs : List Byte) (s : State) : Host.Outcome State Fault Refusal :=
  .next (s.onChannel ch fun c => (s.setChan ch.val (c.adapterWrite bs)).answer 0 0 [])

/-- IS_CONNECTED (41_channel.md R159). -/
def execIsConnected (ch : ChannelIx) (s : State) : Host.Outcome State Fault Refusal :=
  .next (s.onChannel ch fun c => s.answer (flagWord c.connected) 0 [])

/-- STATUS: the status word and LEN (41_channel.md R160). -/
def execStatus (ch : ChannelIx) (s : State) : Host.Outcome State Fault Refusal :=
  .next (s.onChannel ch fun c => s.answer c.statusWord c.dec.lenWord [])

end Sys2Proof.Machine
end

