-- ==== Sys2Proof/Machine/CodecCommands.lean ====
section
/-! DEFINITION. The codec family: ENCODE, DEC_APPEND, DEC_RELEASE (40_codec.md R108, R119, R120). -/

namespace Sys2Proof.Machine

open Sys2Proof

/-- ENCODE: the frame in the response; no state is read or written (40_codec.md R108). -/
def execEncode (payload : List Byte) (s : State) : Host.Outcome State Fault Refusal :=
  .next (s.onPayload payload (s.answer (lengthWord (encodeFrame payload)) 0 (encodeFrame payload)))

/-- DEC_APPEND: one decoder step, refused while a completed frame is held (40_codec.md R119). -/
def execDecAppend (ch : ChannelIx) (b : Byte) (s : State) : Host.Outcome State Fault Refusal :=
  .next (s.onChannel ch fun c =>
    if c.dec.ready then s.reject .errBusy
    else
      let r := c.dec.step (decCap s.cfg) b
      (s.setChan ch.val { c with dec := r.1 }).answer r.2.value r.1.lenWord [])

/-- DEC_RELEASE: the view is released; v0 says whether there was one (40_codec.md R120). -/
def execDecRelease (ch : ChannelIx) (s : State) : Host.Outcome State Fault Refusal :=
  .next (s.onChannel ch fun c =>
    (s.setChan ch.val { c with dec := c.dec.release }).answer (flagWord c.dec.ready) 0 [])

end Sys2Proof.Machine
end

