-- ==== Sys2Proof/Machine/MuxCommands.lean ====
section
/-! DEFINITION. The multiplexer family: POLL, WRITE (43_mux.md R213, R215). -/

namespace Sys2Proof.Machine

open Sys2Proof

/-- POLL: every channel drained in priority order, each frame delivered (43_mux.md R211, R213). -/
def execPoll (s : State) : Host.Outcome State Fault Refusal :=
  let p := pollFrom s.cfg 0 s.chans
  .next ((({ s with chans := p.chans } : State).deliver p.deliveries).answer (s.pollCount p.deliveries.length) 0 [])

/-- WRITE: an adapter write on every channel, connected or not (43_mux.md R215, R216). -/
def execWrite (bs : List Byte) (s : State) : Host.Outcome State Fault Refusal :=
  .next (({ s with chans := s.chans.map (·.adapterWrite bs) } : State).answer 0 0 [])

end Sys2Proof.Machine
end

