-- ==== Sys2Proof/Machine/Dispatch.lean ====
section
/-! DEFINITION. One arm per command of 30_encoding.md R75. -/

namespace Sys2Proof.Machine

open Sys2Proof

def exec (i : Instr) (s : State) : Host.Outcome State Fault Refusal :=
  match i with
  | .encode payload => Sys2Proof.Machine.execEncode payload s
  | .decAppend ch b => Sys2Proof.Machine.execDecAppend ch b s
  | .decRelease ch => Sys2Proof.Machine.execDecRelease ch s
  | .tryRead ch => Sys2Proof.Machine.execTryRead ch s
  | .frameRead ch => Sys2Proof.Machine.execFrameRead ch s
  | .writeRaw ch bs => Sys2Proof.Machine.execWriteRaw ch bs s
  | .isConnected ch => Sys2Proof.Machine.execIsConnected ch s
  | .status ch => Sys2Proof.Machine.execStatus ch s
  | .poll => Sys2Proof.Machine.execPoll s
  | .write bs => Sys2Proof.Machine.execWrite bs s

end Sys2Proof.Machine
end

