-- ==== Sys2Proof/Machine/Port.lean ====
section
/-! DEFINITION. What the machine takes from outside: the next pending input (20_memory.md R57, R61), a received byte
(41_channel.md R152) and a reset (70_reset_and_hazards.md R260). FTC fetches nothing and has no program counter
(10_state.md R21, 20_memory.md R67); the queue `inputs` stands for its caller and its links (log 3). -/

namespace Sys2Proof.Machine

open Sys2Proof

/-- The state once the first input is taken off the queue. -/
def State.taken (s : State) : State := { s with inputs := s.inputs.tail }

/-- The next input, none while FTC is idle (60_exceptions.md R247). -/
def State.nextInput (s : State) : Option Input := s.inputs.head?

/-- An input put before all others. -/
def State.offer (s : State) (i : Input) : State := { s with inputs := i :: s.inputs }

/-- RX_ARRIVE(ch, b) on the machine (41_channel.md R152). A channel that does not exist has no link environment: refused
(DEDUCED, log 5). -/
def State.rxArrive (s : State) (ch : Nat) (b : Byte) : Host.Outcome State Fault Refusal :=
  match s.chan? ch with
  | none => .refused (.absentLink ch)
  | some c => .next (s.setChan ch (c.arrive s.cfg b))

/-- Reset while running: the state of a new launch with the same parameters; the inputs that follow are still to come
(70_reset_and_hazards.md R260, R263; DEDUCED, log 6). -/
def State.restart (s : State) : State := { State.resetOf s.cfg with inputs := s.inputs }

/-- A command that decodes to no instruction: ERR_ILLEGAL (30_encoding.md R77, 60_exceptions.md R231). -/
def State.rejectIllegal (s : State) : Host.Outcome State Fault Refusal := .next (s.reject .errIllegal)

end Sys2Proof.Machine
end

