-- ==== Sys2Proof/Machine/Step.lean ====
section
/-! DEFINITION. One step of FTC: the next pending input, whole (20_memory.md R57, R61). -/

namespace Sys2Proof.Machine

open Sys2Proof

/-- One command (W, D) as the port delivers it: decoded and performed, or answered ERR_ILLEGAL (30_encoding.md R70, R78). -/
def issue (c : Command) (s : State) : Host.Outcome State Fault Refusal :=
  match decode c with
  | .ok i => exec i s
  | .error _ => s.rejectIllegal

/-- One step: the next input is taken off the queue and performed. With no input pending FTC is idle and holds its state
(60_exceptions.md R247). -/
def step (s : State) : Host.Outcome State Fault Refusal :=
  match s.nextInput with
  | none => .next s
  | some (.command c) => issue c s.taken
  | some (.rxArrive ch b) => s.taken.rxArrive ch b
  | some .reset => .next s.taken.restart

/-- The command of a table word offered as the next input (log 3). -/
def State.withFetchWord (s : State) (nbits w : Nat) : State := s.offer (.command (tableCommand nbits w))

end Sys2Proof.Machine
end

