-- ==== Sys2Proof/Machine/Assembly.lean ====
section
/-! DEFINITION. The assembly syntax (30_encoding.md R83): how a command is written. Its word W is that of `encode`. -/

namespace Sys2Proof.Machine

open Sys2Proof

/-- One hexadecimal digit. -/
def hexDigit (n : Nat) : Char := ("0123456789ABCDEF".toList[n]?).getD '0'

/-- A byte as two hexadecimal digits (00_scope.md R15). -/
def hexByte (b : Byte) : String := String.ofList [hexDigit (b.toNat / 16), hexDigit (b.toNat % 16)]

/-- A data phase: a bracketed list of hexadecimal byte pairs (30_encoding.md R83). -/
def dataText (bs : List Byte) : String := "[" ++ String.intercalate " " (bs.map hexByte) ++ "]"

/-- A channel operand: a decimal number (30_encoding.md R83). -/
def channelText (ch : ChannelIx) : String := toString ch.val

/-- The mnemonic of spec/opcode_table.json (30_encoding.md R75). -/
def mnemonicText : Op → String
  | .encode => "ENCODE"
  | .decAppend => "DEC_APPEND"
  | .decRelease => "DEC_RELEASE"
  | .tryRead => "TRY_READ"
  | .frameRead => "FRAME_READ"
  | .writeRaw => "WRITE_RAW"
  | .isConnected => "IS_CONNECTED"
  | .status => "STATUS"
  | .poll => "POLL"
  | .write => "WRITE"

/-- The operands of a command, separated by commas (30_encoding.md R83). -/
def operandTexts : Instr → List String
  | .encode payload => [dataText payload]
  | .decAppend ch b => [channelText ch, "0x" ++ hexByte b]
  | .decRelease ch => [channelText ch]
  | .tryRead ch => [channelText ch]
  | .frameRead ch => [channelText ch]
  | .writeRaw ch bs => [channelText ch, dataText bs]
  | .isConnected ch => [channelText ch]
  | .status ch => [channelText ch]
  | .poll => []
  | .write bs => [dataText bs]

/-- A command in assembly syntax: the mnemonic, then its operands (30_encoding.md R83). -/
def assemblyText (i : Instr) : String :=
  match operandTexts i with
  | [] => mnemonicText i.op
  | ops => mnemonicText i.op ++ " " ++ String.intercalate ", " ops

end Sys2Proof.Machine
end

