-- ==== Sys2Proof/Machine/Frame.lean ====
section
/-! DEFINITION. The frame wire format as a grammar, written apart from the encoder and the decoder (40_codec.md R100 to
R104), and a decoder fed a byte sequence (R109, R121). The machine does not use this file; statements do. -/

namespace Sys2Proof.Machine

open Sys2Proof

/-- The data bytes of one run of a well-formed frame: at most 254 of them, none 0x00 (40_codec.md R103, R104). -/
abbrev RunData (run : List Byte) : Prop := run.length ≤ maxRun ∧ ∀ b ∈ run, b ≠ delimiter

/-- The bytes of the frame with these runs: each run's marker and data, then the delimiter (40_codec.md R104). -/
def frameBytes : List (List Byte) → List Byte
  | [] => [delimiter]
  | run :: runs => markedRun run ++ frameBytes runs

/-- The payload that the frame with these runs stands for: the runs' data with one 0x00 between consecutive runs wherever
the earlier run's marker is not 0xFF (40_codec.md R104). -/
def framePayload : List (List Byte) → List Byte
  | [] => []
  | [run] => run
  | run :: next :: runs =>
    run ++ (if run.length = maxRun then [] else [delimiter]) ++ framePayload (next :: runs)

/-- `frame` is a well-formed frame and `payload` the payload it stands for (40_codec.md R104). -/
def IsFrameOf (frame payload : List Byte) : Prop :=
  ∃ runs : List (List Byte), runs ≠ [] ∧ (∀ run ∈ runs, RunData run) ∧
    frame = frameBytes runs ∧ payload = framePayload runs

/-- The bytes fed one at a time through DecStep, with the result codes in order (40_codec.md R109, R121). -/
def Decoder.feed (cap : Nat) (d : Decoder) : List Byte → Decoder × List DecodeCode
  | [] => (d, [])
  | b :: bs =>
    let r := d.step cap b
    let q := Decoder.feed cap r.1 bs
    (q.1, r.2 :: q.2)

/-- A decoder that holds a completed frame with the payload, all else at its reset value (40_codec.md R114). -/
def Decoder.holding (payload : List Byte) : Decoder := { Decoder.reset with buf := payload, ready := true }

end Sys2Proof.Machine
end

