-- ==== Sys2Proof/Machine/Pseudo.lean ====
section
/-! DEFINITION. The pseudo-commands SEND, RECV and FEED (30_encoding.md R84): what the caller issues for each of them. FTC
never sees a pseudo-command; each is a sequence of commands on its port. -/

namespace Sys2Proof.Machine

open Sys2Proof

/-- An outcome carried on to what the caller does next. -/
def thenDo (o : Host.Outcome State Fault Refusal) (k : State → Host.Outcome State Fault Refusal) :
    Host.Outcome State Fault Refusal :=
  match o with
  | .next t => k t
  | .fault r => .fault r
  | .refused r => .refused r

/-- The last response, which the caller sees before it issues the next command (30_encoding.md R79). -/
def State.lastResponse (s : State) : Option Response := s.rsp.getLast?

/-- The data of the last response. -/
def State.lastData (s : State) : List Byte :=
  match s.lastResponse with
  | some r => r.data
  | none => []

/-- v0 of the last response. -/
def State.lastV0 (s : State) : Word :=
  match s.lastResponse with
  | some r => r.v0
  | none => 0

/-- The caller issues one command (30_encoding.md R70, R83). -/
def issueInstr (i : Instr) (s : State) : Host.Outcome State Fault Refusal := issue (encode i) s

/-- SEND: ENCODE, then WRITE of the data of its response (30_encoding.md R84). A frame of more than 65535 bytes fits no
WRITE; the command the caller then forms is illegal (log 15). -/
def runSend (payload : List Byte) (s : State) : Host.Outcome State Fault Refusal :=
  thenDo (issueInstr (.encode payload) s) fun t => issueInstr (.write t.lastData) t

/-- RECV: TRY_READ, then FRAME_READ if and only if it answered v0 = 1 (30_encoding.md R84). -/
def runRecv (ch : ChannelIx) (s : State) : Host.Outcome State Fault Refusal :=
  thenDo (issueInstr (.tryRead ch) s) fun t => if t.lastV0 = 1 then issueInstr (.frameRead ch) t else .next t

/-- FEED: DEC_APPEND of each byte, stopping after the first response whose v0 is COMPLETE (30_encoding.md R84). -/
def runFeed (ch : ChannelIx) : List Byte → State → Host.Outcome State Fault Refusal
  | [], s => .next s
  | b :: bs, s =>
    thenDo (issueInstr (.decAppend ch b) s) fun t =>
      if t.lastV0 = DecodeCode.complete.value then .next t else runFeed ch bs t

end Sys2Proof.Machine
end

