-- ==== Sys2Proof/Safety.lean ====
section
/-! DEFINITION. What counts as a safe run, in the terms the statements use: the invariants of the state, the legal
commands, the status a command must be answered with. -/

namespace Sys2Proof.Machine

open Sys2Proof

/-! Invariants of a decoder. -/

/-- The seven decoder invariants of 10_state.md R29. -/
structure Decoder.Invariant (d : Decoder) : Prop where
  idle : d.phase = .idle → d.rem = 0 ∧ d.full = false ∧ d.zp = false
  idleEmpty : d.phase = .idle → d.ready = false → d.buf = []
  hunt : d.phase = .hunt → d.buf = [] ∧ d.rem = 0 ∧ d.full = false ∧ d.zp = false ∧ d.ready = false
  run : d.phase = .run → 1 ≤ d.rem ∧ d.rem ≤ 254 ∧ d.zp = false ∧ d.ready = false
  marker : d.phase = .marker → d.rem = 0 ∧ d.ready = false
  markerZp : d.phase = .marker → d.zp = true → d.full = false
  ready : d.ready = true → d.phase = .idle

/-! Invariants of a channel. -/

/-- The adapter is of the kind the Channel Set gives the channel, and its selector is the one construction resolved
(10_state.md R31, R35; 42_bringup.md R192). -/
def Adapter.Fits : ChannelSpec → Adapter → Prop
  | .wired, .wired => True
  | .wireless desiredBaud, .wireless _ sel => sel = resolve desiredBaud
  | .wired, .wireless _ _ => False
  | .wireless _, .wired => False

/-- A channel of the machine with parameters `cfg`, at the place of the Channel Set that `spec` describes: the decoder
invariants (10_state.md R29), a buffer within DEC_CAP (R24), a queue within RX_DEPTH (R32), the right adapter. -/
structure Channel.Invariant (cfg : Config) (spec : ChannelSpec) (c : Channel) : Prop where
  dec : c.dec.Invariant
  buf : c.dec.buf.length ≤ decCap cfg
  rxq : c.rxq.length ≤ cfg.rxDepth
  adapter : c.adapter.Fits spec

/-- What the traces of a channel say of what it sent (41_channel.md R157, 42_bringup.md R186): a wired channel sent every
request, in order, and nothing else; an unconnected wireless channel sent its configuration lines, once or more, and
nothing else. -/
def Channel.SentRight (cfg : Config) (c : Channel) : Prop :=
  match c.adapter with
  | .wired => c.txq = c.wrq.flatten
  | .wireless cs sel =>
    cs ≠ .connected → ∃ n : Nat, c.txq = (List.replicate (n + 1) (configLines cfg sel)).flatten

/-! Invariants of the machine. -/

/-- A response as 30_encoding.md R79 allows it: a status other than OK comes with v0 = 0, v1 = 0 and no data. -/
def Response.Proper (r : Response) : Prop := r.status ≠ .ok → r = Response.error r.status

/-- The invariant of the machine: valid parameters (00_scope.md R9 to R13), one channel record per entry of the Channel
Set, each as `Channel.Invariant` says; deliveries that name an existing channel and fit DEC_CAP (10_state.md R36); proper
responses. -/
structure State.Invariant (s : State) : Prop where
  cfg : s.cfg.Valid
  chans : List.Forall₂ (Channel.Invariant s.cfg) s.cfg.channels s.chans
  dlv : ∀ d ∈ s.dlv, d.ch < s.nch ∧ d.payload.length ≤ decCap s.cfg
  rsp : ∀ r ∈ s.rsp, r.Proper

/-- Every channel's traces are as `Channel.SentRight` says. -/
def State.SentRight (s : State) : Prop := ∀ c ∈ s.chans, c.SentRight s.cfg

/-- Every received byte that is still to come comes on a channel that exists (41_channel.md R152; log 5). -/
def State.LinksExist (s : State) : Prop := ∀ ch b, Input.rxArrive ch b ∈ s.inputs → ch < s.nch

/-! What a byte string does to a decoder and to a matcher. -/

/-- Fed to the decoder, the bytes complete a frame, and with the last byte only (41_channel.md R154). -/
def CompletesAtLast (cap : Nat) (d : Decoder) (bs : List Byte) : Prop :=
  ∃ codes, (d.feed cap bs).2 = codes ++ [.complete] ∧ DecodeCode.complete ∉ codes

/-- Matched from the Connection State `cs`, the bytes connect, and with the last byte only (42_bringup.md R187 to R190). The
matcher is asked for nothing in CONNECTED. -/
def ConnectsAtLast (cs : ConnState) (bs : List Byte) : Prop :=
  bs.foldl ConnState.matchByte cs = .connected ∧
    ∀ k < bs.length, (bs.take k).foldl ConnState.matchByte cs ≠ .connected

/-! Commands. -/

/-- The pairs (W, D) that stand for a command, field by field (30_encoding.md R71, R73, R74, R75): written from the table of
R75, apart from the match and mask table that `decode` uses. -/
abbrev LegalCommand (c : Command) : Prop :=
  rsvField c.word = 0 ∧
    ((opField c.word = 0x01 ∧ chField c.word = 0 ∧ c.data.length = (immField c.word).toNat) ∨
      (opField c.word = 0x02 ∧ (immField c.word).extractLsb' 8 8 = 0 ∧ c.data = []) ∨
      ((opField c.word = 0x03 ∨ opField c.word = 0x10 ∨ opField c.word = 0x11 ∨ opField c.word = 0x13 ∨
          opField c.word = 0x14) ∧ immField c.word = 0 ∧ c.data = []) ∨
      (opField c.word = 0x12 ∧ c.data.length = (immField c.word).toNat) ∨
      (opField c.word = 0x20 ∧ chField c.word = 0 ∧ immField c.word = 0 ∧ c.data = []) ∨
      (opField c.word = 0x21 ∧ chField c.word = 0 ∧ c.data.length = (immField c.word).toNat))

/-- The channel a channel command names (30_encoding.md R73). -/
def namedChannel : Instr → Option Nat
  | .encode _ => none
  | .decAppend ch _ => some ch.val
  | .decRelease ch => some ch.val
  | .tryRead ch => some ch.val
  | .frameRead ch => some ch.val
  | .writeRaw ch _ => some ch.val
  | .isConnected ch => some ch.val
  | .status ch => some ch.val
  | .poll => none
  | .write _ => none

/-- READY of a channel, false where it does not exist. -/
def State.readyOn (s : State) (ch : Nat) : Bool :=
  match s.chan? ch with
  | some c => c.dec.ready
  | none => false

/-- The status with which a decoded command is answered: the first that applies, in the order CHANNEL, LENGTH, BUSY or
NOFRAME, OK (60_exceptions.md R232 to R235, R237). -/
def requiredStatus (i : Instr) (s : State) : Status :=
  if (namedChannel i).any (s.nch ≤ ·) then .errChannel
  else
    match i with
    | .encode payload => if s.cfg.nMax < payload.length then .errLength else .ok
    | .decAppend ch _ => if s.readyOn ch.val then .errBusy else .ok
    | .decRelease _ => .ok
    | .tryRead _ => .ok
    | .frameRead ch => if s.readyOn ch.val then .ok else .errNoFrame
    | .writeRaw _ _ => .ok
    | .isConnected _ => .ok
    | .status _ => .ok
    | .poll => .ok
    | .write _ => .ok

/-- The next input is a reset. -/
def State.resetNext (s : State) : Prop := s.nextInput = some .reset

/-- The commands that end the view of channel k (41_channel.md R161). -/
def endsView (k : Nat) : Instr → Bool
  | .encode _ => false
  | .decAppend _ _ => false
  | .decRelease ch => ch.val == k
  | .tryRead ch => ch.val == k
  | .frameRead _ => false
  | .writeRaw _ _ => false
  | .isConnected _ => false
  | .status _ => false
  | .poll => true
  | .write _ => false

end Sys2Proof.Machine
end

