-- ==== Sys2Proof/Certificates/Slice0/Obligations.lean ====
section
/-! DEFINITION. The statements for the provers. Each docstring names the rule of spec/ that it formalises. -/

open Sys2Proof Sys2Proof.Machine

/-! Encoding (30_encoding.md). -/

/-- Decoding the pair (W, D) of a well-formed command gives the command back: no operand bit is dropped (R71, R72, R74,
R75, R83). -/
def Obligations.DecodeOfEncode : Prop :=
  ∀ i : Instr, i.WellFormed → decode (encode i) = .ok i

/-- A pair (W, D) that decodes to a command is the pair that command is encoded as, and the command is well-formed: each
command has one encoding (R71, R74, R75, R76). -/
def Obligations.EncodeOfDecode : Prop :=
  ∀ (c : Command) (i : Instr), decode c = .ok i → encode i = c ∧ i.WellFormed

/-- No word selects two rows of the match and mask table (R76). -/
def Obligations.OpcodeRowsDisjoint : Prop :=
  ∀ (w : Word) (r q : OpRow), r ∈ opTable → q ∈ opTable → r.selects w = true → q.selects w = true → r = q

/-- A pair (W, D) decodes to a command exactly when the fields of W and the length of D are as the opcode map says
(R73, R74, R75, R77, R78). -/
def Obligations.DecodeAcceptsLegal : Prop :=
  ∀ c : Command, (∃ i, decode c = .ok i) ↔ LegalCommand c

/-- What a pair that decodes stands for: OP is the opcode of the mnemonic (R75), the channel is W[11:8] zero-extended, the
byte of DEC_APPEND is W[23:16], the data phase is D, whose length is IMM for ENCODE, WRITE_RAW and WRITE (R72, R74). -/
def Obligations.DecodedOperands : Prop :=
  ∀ (c : Command) (i : Instr), decode c = .ok i →
    (c.word.extractLsb' 0 8 =
      match i with
      | .encode _ => 0x01#8
      | .decAppend _ _ => 0x02#8
      | .decRelease _ => 0x03#8
      | .tryRead _ => 0x10#8
      | .frameRead _ => 0x11#8
      | .writeRaw _ _ => 0x12#8
      | .isConnected _ => 0x13#8
      | .status _ => 0x14#8
      | .poll => 0x20#8
      | .write _ => 0x21#8) ∧
    (∀ n, namedChannel i = some n → n = (c.word.extractLsb' 8 4).toNat) ∧
    (∀ ch b, i = .decAppend ch b → b = c.word.extractLsb' 16 8) ∧
    i.data = c.data ∧
    (i.op = .encode ∨ i.op = .writeRaw ∨ i.op = .write → c.data.length = (c.word.extractLsb' 16 16).toNat)

/-- The four example words of R83. -/
def Obligations.DecodeExampleWords : Prop :=
  decode ⟨0x00000110#32, []⟩ = .ok (.tryRead 1) ∧
  decode ⟨0x004F0002#32, []⟩ = .ok (.decAppend 0 0x4F#8) ∧
  decode ⟨0x00030001#32, [0x10#8, 0x00#8, 0x20#8]⟩ = .ok (.encode [0x10#8, 0x00#8, 0x20#8]) ∧
  decode ⟨0x00020112#32, [0xAA#8, 0xBB#8]⟩ = .ok (.writeRaw 1 [0xAA#8, 0xBB#8])

/-- A transport that carries a well-formed command as bytes (the word least significant byte first, then the data phase)
reads back that command and leaves the bytes that follow (20_memory.md R53, 30_encoding.md R82). -/
def Obligations.SerialisedCommandReadsBack : Prop :=
  ∀ (i : Instr) (rest : List Byte), i.WellFormed →
    readCommand ((encode i).bytes ++ rest) = some (encode i, rest)

/-! Steps (20_memory.md R57, R61; 60_exceptions.md). -/

/-- When the next input is a command, the step performs it on the state with the command taken off the queue: exec of the
instruction it decodes to, where it decodes (R70, R78). The queue is the model's (log 3). -/
def Obligations.StepRunsDecodedCommand : Prop :=
  ∀ (s : State) (c : Command) (rest : List Input), s.inputs = .command c :: rest →
    step s = issue c { s with inputs := rest } ∧
    ∀ i : Instr, decode c = .ok i → step s = exec i { s with inputs := rest }

/-- ERR_ILLEGAL: a pair (W, D) that no row of the opcode map allows is answered with status 0x01, and nothing but the
response changes (R231). -/
def Obligations.IllegalCommandAnswered : Prop :=
  Status.errIllegal.code = 0x01#8 ∧
  ∀ (s : State) (c : Command), ¬ LegalCommand c →
    issue c s = .next { s with rsp := s.rsp ++ [⟨.errIllegal, 0, 0, []⟩] }

/-- RX_ARRIVE: a received byte joins the tail of its channel's queue if the queue holds fewer than RX_DEPTH bytes and is lost
otherwise; nothing else changes (41_channel.md R152). -/
def Obligations.ArrivalJoinsQueueOrIsLost : Prop :=
  ∀ (s : State) (ch : Nat) (b : Byte) (rest : List Input) (c : Channel),
    s.inputs = .rxArrive ch b :: rest → s.chan? ch = some c →
      (c.rxq.length < s.cfg.rxDepth →
        step s = .next { s with inputs := rest, chans := s.chans.set ch { c with rxq := c.rxq ++ [b] } }) ∧
      (s.cfg.rxDepth ≤ c.rxq.length → step s = .next { s with inputs := rest })

/-- With no input pending, FTC holds its state (R247). That it steps at all is the model's choice (log 3). -/
def Obligations.IdleHoldsState : Prop :=
  ∀ s : State, s.inputs = [] → step s = .next s

/-- A reset while running is the start of a new launch with the same parameters; the inputs after it are still to come
(70_reset_and_hazards.md R260, R263). That the response trace is emptied and the later inputs kept is the model's choice
(log 6). -/
def Obligations.ResetStartsNewLaunch : Prop :=
  ∀ (s : State) (rest : List Input), s.inputs = .reset :: rest →
    step s = .next { State.resetOf s.cfg with inputs := rest }

/-- No condition stops the machine (R230, R239): a step answers a next state unless the next input is a byte received on
a channel that does not exist, which the model refuses by name (log 5). -/
def Obligations.StepStopsOnlyOnAbsentLink : Prop :=
  ∀ s : State, (∃ t, step s = .next t) ∨
    (∃ ch b rest, s.inputs = .rxArrive ch b :: rest ∧ s.nch ≤ ch ∧ step s = .refused (.absentLink ch))

/-! Reset (70_reset_and_hazards.md). -/

/-- The reset values of every element of the spec's state, for every configuration (R262). The model's own fields are not
spoken of. -/
def Obligations.ResetValues : Prop :=
  ∀ cfg : Config,
    (State.resetOf cfg).dlv = [] ∧ (State.resetOf cfg).nch = cfg.channels.length ∧
    ∀ (ch : Nat) (spec : ChannelSpec), cfg.channels[ch]? = some spec →
      ∃ c, (State.resetOf cfg).chan? ch = some c ∧
        c.dec.phase = .idle ∧ c.dec.buf = [] ∧ c.dec.rem = 0 ∧ c.dec.full = false ∧ c.dec.zp = false ∧
        c.dec.ready = false ∧ c.rxq = [] ∧ c.wrq = [] ∧
        match spec with
        | .wired => c.adapter = .wired ∧ c.txq = [] ∧ c.connected = true ∧ c.statusWord = 0x00000002#32
        | .wireless desiredBaud =>
          c.adapter = .wireless .initial (resolve desiredBaud) ∧
          c.txq = configLines cfg (resolve desiredBaud) ∧ c.connected = false ∧
          c.statusWord = 0x00000001#32 + 32#32 * BitVec.ofNat 32 (resolve desiredBaud).val

/-- Reset meets both invariants, for every valid configuration. -/
def Obligations.ResetMeetsInvariants : Prop :=
  ∀ cfg : Config, cfg.Valid → (State.resetOf cfg).Invariant ∧ (State.resetOf cfg).SentRight

/-! Invariants of the machine. -/

/-- Every step keeps the machine's invariant: valid parameters, one channel record of the right kind and selector per entry
of the Channel Set, decoder invariants, buffers within DEC_CAP, queues within RX_DEPTH, deliveries and responses in their
ranges (10_state.md R24, R29, R31, R32, R36, R40; 30_encoding.md R79). -/
def Obligations.StepKeepsInvariant : Prop :=
  ∀ s t : State, s.Invariant → step s = .next t → t.Invariant

/-- Every step keeps what the traces say: a wired channel has sent every request handed to it, in order, and nothing else;
an unconnected wireless channel has sent its configuration lines, once or more, and nothing else (41_channel.md R157,
42_bringup.md R184 to R186). -/
def Obligations.StepKeepsSentRight : Prop :=
  ∀ s t : State, s.SentRight → step s = .next t → t.SentRight

/-- The seven decoder invariants of R29: reset establishes them on every channel and every operation preserves them. -/
def Obligations.DecoderInvariantsPreserved : Prop :=
  (∀ cfg : Config, ∀ c ∈ (State.resetOf cfg).chans, c.dec.Invariant) ∧
  ∀ s t : State, (∀ c ∈ s.chans, c.dec.Invariant) → step s = .next t → ∀ c ∈ t.chans, c.dec.Invariant

/-- TXQ, WRQ and DLV are append-only (10_state.md R22, R33, R34, R36): every step but a reset leaves each of them a prefix of
what it becomes. The response trace is the model's choice (DESIGN CHOICE, log 4), and so is that it too is append-only. -/
def Obligations.TracesAppendOnly : Prop :=
  ∀ s t : State, ¬ s.resetNext → step s = .next t →
    s.dlv <+: t.dlv ∧ s.rsp <+: t.rsp ∧
    ∀ (k : Nat) (c : Channel), s.chan? k = some c →
      ∃ c', t.chan? k = some c' ∧ c.txq <+: c'.txq ∧ c.wrq <+: c'.wrq

/-- The parameters never change, and, but for a reset, neither does the kind nor the selector of any channel (10_state.md
R31, R40; 42_bringup.md R192). -/
def Obligations.ParametersAndSelectorsFixed : Prop :=
  ∀ s t : State, step s = .next t →
    t.cfg = s.cfg ∧
    (¬ s.resetNext → t.nch = s.nch ∧ ∀ (k : Nat) (c : Channel), s.chan? k = some c →
      ∃ c', t.chan? k = some c' ∧ c'.adapter.kindField = c.adapter.kindField ∧
        c'.adapter.selField = c.adapter.selField)

/-- CONNECTED is absorbing: no step but a reset takes a wireless channel out of it (42_bringup.md R190). -/
def Obligations.ConnectedIsAbsorbing : Prop :=
  ∀ (s t : State) (k : Nat) (c : Channel) (sel : Selector), ¬ s.resetNext → step s = .next t →
    s.chan? k = some c → c.adapter = .wireless .connected sel →
      ∃ c', t.chan? k = some c' ∧ c'.adapter = .wireless .connected sel

/-- The view of a channel stays as it is, and READY stays 1, under every step but a reset and the commands that release the
channel: TRY_READ and DEC_RELEASE on it, and POLL (41_channel.md R161). -/
def Obligations.ViewStaysUntilReleased : Prop :=
  ∀ (s t : State) (k : Nat) (c : Channel), s.chan? k = some c → c.dec.ready = true → ¬ s.resetNext →
    (∀ cmd i, s.nextInput = some (.command cmd) → decode cmd = .ok i → endsView k i = false) →
    step s = .next t → ∃ c', t.chan? k = some c' ∧ c'.dec = c.dec

/-! The decoder step (40_codec.md). -/

/-- DecStep in phase HUNT (R112). -/
def Obligations.HuntStep : Prop :=
  ∀ (cap : Nat) (d : Decoder), d.phase = .hunt →
    d.step cap 0x00#8 = ({ d with phase := .idle }, .pending) ∧
    ∀ b, b ≠ 0x00#8 → d.step cap b = (d, .pending)

/-- DecStep in phase IDLE (R113), with StartMarker written out (R110). -/
def Obligations.IdleStep : Prop :=
  ∀ (cap : Nat) (d : Decoder), d.phase = .idle →
    d.step cap 0x00#8 = (d, .pending) ∧
    d.step cap 0x01#8 = ({ d with rem := 0, full := false, zp := true, phase := .marker }, .pending) ∧
    ∀ b : Byte, 2 ≤ b.toNat →
      d.step cap b = ({ d with rem := b.toNat - 1, full := decide (b = 0xFF#8), phase := .run }, .pending)

/-- DecStep in phase MARKER: the delimiter ends the frame (R114); the next marker appends the implicit zero that is owed, or
overflows (R115, with StartMarker of R110 written out). -/
def Obligations.MarkerStep : Prop :=
  ∀ (cap : Nat) (d : Decoder), d.phase = .marker →
    d.step cap 0x00#8 =
      ({ d with zp := false, full := false, rem := 0, phase := .idle, ready := true }, .complete) ∧
    ∀ b, b ≠ 0x00#8 →
      (d.zp = true → d.buf.length = cap →
        d.step cap b =
          ({ d with buf := [], rem := 0, full := false, zp := false, phase := .hunt }, .malformed)) ∧
      (d.zp = true → d.buf.length ≠ cap → b = 0x01#8 →
        d.step cap b =
          ({ d with buf := d.buf ++ [0x00#8], rem := 0, full := false, zp := true, phase := .marker }, .pending)) ∧
      (d.zp = true → d.buf.length ≠ cap → b ≠ 0x01#8 →
        d.step cap b =
          ({ d with
              buf := d.buf ++ [0x00#8], rem := b.toNat - 1, full := decide (b = 0xFF#8), zp := false
              phase := .run }, .pending)) ∧
      (d.zp = false → b = 0x01#8 →
        d.step cap b = ({ d with rem := 0, full := false, zp := true, phase := .marker }, .pending)) ∧
      (d.zp = false → b ≠ 0x01#8 →
        d.step cap b =
          ({ d with rem := b.toNat - 1, full := decide (b = 0xFF#8), phase := .run }, .pending))

/-- DecStep in phase RUN: a delimiter mid-run discards the frame (R116); a data byte is appended, or overflows (R117). -/
def Obligations.RunStep : Prop :=
  ∀ (cap : Nat) (d : Decoder), d.phase = .run → 1 ≤ d.rem →
    d.step cap 0x00#8 =
      ({ d with buf := [], rem := 0, full := false, zp := false, phase := .idle }, .malformed) ∧
    ∀ b, b ≠ 0x00#8 →
      (d.buf.length = cap →
        d.step cap b =
          ({ d with buf := [], rem := 0, full := false, zp := false, phase := .hunt }, .malformed)) ∧
      (d.buf.length ≠ cap → d.rem = 1 →
        d.step cap b =
          ({ d with buf := d.buf ++ [b], rem := 0, zp := !d.full, phase := .marker }, .pending)) ∧
      (d.buf.length ≠ cap → 2 ≤ d.rem →
        d.step cap b = ({ d with buf := d.buf ++ [b], rem := d.rem - 1 }, .pending))

/-! The frame codec as a whole (40_codec.md). -/

/-- Round trip: fed to an idle decoder that holds no frame, Encode(P) answers PENDING on every byte but the last and
COMPLETE on the last, and then BUF = P (R121). A decoder with PHASE = IDLE and READY = 0 satisfies R29, so the invariant is
a premise. -/
def Obligations.FrameRoundTrip : Prop :=
  ∀ (cap : Nat) (payload : List Byte) (d : Decoder), payload.length ≤ cap →
    d.Invariant → d.phase = .idle → d.ready = false →
      d.feed cap (encodeFrame payload) =
        (Decoder.holding payload,
          List.replicate ((encodeFrame payload).length - 1) .pending ++ [.complete])

/-- Every well-formed frame, in whatever form of its runs, decodes to the payload it stands for (R104, R123). -/
def Obligations.WellFormedFrameDecodes : Prop :=
  ∀ (cap : Nat) (frame payload : List Byte) (d : Decoder), IsFrameOf frame payload → payload.length ≤ cap →
    d.Invariant → d.phase = .idle → d.ready = false →
      d.feed cap frame =
        (Decoder.holding payload, List.replicate (frame.length - 1) .pending ++ [.complete])

/-- Encode(P) is a well-formed frame and stands for P (R104, R105), in the shorter boundary form: no empty run follows a full
run at the end (R106). The corner cases of R106: the payload that ends with a full run, the empty payload, zeros only, a
payload that ends in 0x00. -/
def Obligations.EncodeIsWellFormedFrame : Prop :=
  (∀ payload : List Byte, ∃ runs : List (List Byte), runs ≠ [] ∧ (∀ run ∈ runs, RunData run) ∧
    encodeFrame payload = frameBytes runs ∧ payload = framePayload runs ∧
    ∀ (before : List (List Byte)) (full : List Byte), full.length = 254 → runs ≠ before ++ [full, []]) ∧
  (∀ front full : List Byte, full.length = 254 → (∀ b ∈ full, b ≠ 0x00#8) →
    encodeFrame full = 0xFF#8 :: full ++ [0x00#8] ∧
    ∃ out, encodeFrame (front ++ [0x00#8] ++ full) = out ++ 0xFF#8 :: full ++ [0x00#8]) ∧
  encodeFrame [] = [0x01#8, 0x00#8] ∧
  (∀ n : Nat, encodeFrame (List.replicate n 0x00#8) = List.replicate (n + 1) 0x01#8 ++ [0x00#8]) ∧
  (∀ front : List Byte, ∃ out, encodeFrame (front ++ [0x00#8]) = out ++ [0x01#8, 0x00#8])

/-- The delimiter is 0x00, and a frame ends with exactly one delimiter (R100). -/
def Obligations.FrameEndsWithOneDelimiter : Prop :=
  delimiter = 0x00#8 ∧
  ∀ frame payload : List Byte, IsFrameOf frame payload →
    ∃ body, frame = body ++ [0x00#8] ∧ ∀ b ∈ body, b ≠ 0x00#8

/-- The length of a frame (R107): at most n + 1 + max(1, ceil(n / 254)), with equality for a payload without zeros; exactly
n + 2 for n zeros; at most ENC_MAX for an allowed payload. -/
def Obligations.FrameLength : Prop :=
  (∀ payload : List Byte, (encodeFrame payload).length ≤ payload.length + 1 + max 1 ((payload.length + 253) / 254)) ∧
  (∀ payload : List Byte, (∀ b ∈ payload, b ≠ 0x00#8) →
    (encodeFrame payload).length = payload.length + 1 + max 1 ((payload.length + 253) / 254)) ∧
  (∀ n : Nat, (encodeFrame (List.replicate n 0x00#8)).length = n + 2) ∧
  (∀ (cfg : Config) (payload : List Byte), payload.length ≤ cfg.nMax → (encodeFrame payload).length ≤ encMax cfg)

/-- The frame of a payload longer than DEC_CAP completes nothing and leaves the decoder as after reset (R112, R115, R117;
92_eei_decisions.md D12). -/
def Obligations.OversizeFrameDiscarded : Prop :=
  ∀ (cap : Nat) (payload : List Byte) (d : Decoder), cap < payload.length →
    d.Invariant → d.phase = .idle → d.ready = false →
      (d.feed cap (encodeFrame payload)).1 = Decoder.reset ∧
      DecodeCode.complete ∉ (d.feed cap (encodeFrame payload)).2

/-! Bring-up (42_bringup.md). -/

/-- Resolve (R183): the index of a supported rate, and 0 for every other 32-bit integer. -/
def Obligations.ResolveRate : Prop :=
  resolve 9600#32 = 0 ∧ resolve 19200#32 = 1 ∧ resolve 38400#32 = 2 ∧ resolve 57600#32 = 3 ∧
  resolve 115200#32 = 4 ∧ resolve 230400#32 = 5 ∧ resolve 460800#32 = 6 ∧ resolve 921600#32 = 7 ∧
  ∀ r : BitVec 32,
    r.toNat ∉ [9600, 19200, 38400, 57600, 115200, 230400, 460800, 921600] → resolve r = 0

/-- A matching byte advances the Connection State by one (R187); a mismatch in states 0 to 5 resets it to INITIAL, whatever
the byte (R188); in MATCH_CR2 every byte other than 0x0A leaves it (R189). -/
def Obligations.MatcherStep : Prop :=
  ∀ (cs : ConnState) (b : Byte), cs ≠ .connected →
    ([0x0D#8, 0x0A#8, 0x43#8, 0x4F#8, 0x4E#8, 0x0D#8, 0x0A#8][cs.ordinal]? = some b →
      (cs.matchByte b).ordinal = cs.ordinal + 1) ∧
    ([0x0D#8, 0x0A#8, 0x43#8, 0x4F#8, 0x4E#8, 0x0D#8, 0x0A#8][cs.ordinal]? ≠ some b → cs ≠ .matchCr2 →
      cs.matchByte b = .initial) ∧
    (cs = .matchCr2 → b ≠ 0x0A#8 → cs.matchByte b = .matchCr2)

/-- From INITIAL the matcher connects exactly on the byte strings that, after some prefix which brings it back to INITIAL,
hold CR LF 'C' 'O' 'N' CR, then anything, then LF (R187 to R190). The fold goes on over the bytes after the first
connecting LF with Match in CONNECTED, which R187 does not define: there it rests on the model's answer CONNECTED
(DEDUCED, log 18). -/
def Obligations.ConnectsExactlyOnConfirmation : Prop :=
  ∀ bs : List Byte,
    bs.foldl ConnState.matchByte .initial = .connected ↔
      ∃ pre mid post : List Byte, pre.foldl ConnState.matchByte .initial = .initial ∧
        bs = pre ++ [0x0D#8, 0x0A#8, 0x43#8, 0x4F#8, 0x4E#8, 0x0D#8] ++ mid ++ [0x0A#8] ++ post

/-! Results of the commands. -/

/-- ENCODE (40_codec.md R108): a payload of at most N_MAX bytes is answered with its frame and the frame's length; a longer
one with ERR_LENGTH; no state is written. -/
def Obligations.EncodeResult : Prop :=
  ∀ (payload : List Byte) (s : State),
    (payload.length ≤ s.cfg.nMax →
      exec (.encode payload) s =
        .next { s with rsp := s.rsp ++
          [⟨.ok, BitVec.ofNat 32 (encodeFrame payload).length, 0, encodeFrame payload⟩] }) ∧
    (s.cfg.nMax < payload.length →
      exec (.encode payload) s = .next { s with rsp := s.rsp ++ [⟨.errLength, 0, 0, []⟩] })

/-- DEC_APPEND (40_codec.md R119): one decoder step on an existing channel that holds no frame, answered with its code and
LEN; ERR_BUSY, the byte not consumed, while a frame is held. Nothing but the channel's decoder is written. -/
def Obligations.DecAppendResult : Prop :=
  ∀ (ch : ChannelIx) (b : Byte) (s : State) (c : Channel), s.chan? ch.val = some c →
    (c.dec.ready = false →
      exec (.decAppend ch b) s =
        .next { s with
          chans := s.chans.set ch.val { c with dec := (c.dec.step s.cfg.nMax b).1 }
          rsp := s.rsp ++
            [⟨.ok, match (c.dec.step s.cfg.nMax b).2 with | .pending => 0 | .complete => 1 | .malformed => 2,
              BitVec.ofNat 32 (c.dec.step s.cfg.nMax b).1.buf.length, []⟩] }) ∧
    (c.dec.ready = true →
      exec (.decAppend ch b) s = .next { s with rsp := s.rsp ++ [⟨.errBusy, 0, 0, []⟩] })

/-- DEC_RELEASE (40_codec.md R118, R120): a held frame is released and v0 = 1; otherwise nothing changes and v0 = 0. -/
def Obligations.DecReleaseResult : Prop :=
  ∀ (ch : ChannelIx) (s : State) (c : Channel), s.chan? ch.val = some c →
    (c.dec.ready = true →
      exec (.decRelease ch) s =
        .next { s with
          chans := s.chans.set ch.val { c with dec := { c.dec with buf := [], ready := false } }
          rsp := s.rsp ++ [⟨.ok, 1, 0, []⟩] }) ∧
    (c.dec.ready = false →
      exec (.decRelease ch) s = .next { s with rsp := s.rsp ++ [⟨.ok, 0, 0, []⟩] })

/-- TRY_READ on an existing channel (41_channel.md R154, R155): the channel record that TryRead leaves, v0 = 1 and v1 = LEN
when a frame is ready, both 0 otherwise. What TryRead does is said by TryReadConsumes, TryReadDecodesFrame,
UnconnectedReadFeedsMatcher and HandshakeThenFrame. -/
def Obligations.TryReadResult : Prop :=
  ∀ (ch : ChannelIx) (s : State) (c : Channel), s.chan? ch.val = some c →
    exec (.tryRead ch) s =
      .next { s with
        chans := s.chans.set ch.val (c.tryRead s.cfg).chan
        rsp := s.rsp ++
          [⟨.ok, if (c.tryRead s.cfg).ready then 1 else 0,
            if (c.tryRead s.cfg).ready then BitVec.ofNat 32 (c.tryRead s.cfg).chan.dec.buf.length else 0, []⟩] }

/-- FRAME_READ (41_channel.md R156): the view and its length while READY = 1, ERR_NOFRAME otherwise; no state is written. -/
def Obligations.FrameReadResult : Prop :=
  ∀ (ch : ChannelIx) (s : State) (c : Channel), s.chan? ch.val = some c →
    (c.dec.ready = true →
      exec (.frameRead ch) s =
        .next { s with rsp := s.rsp ++ [⟨.ok, BitVec.ofNat 32 c.dec.buf.length, 0, c.dec.buf⟩] }) ∧
    (c.dec.ready = false →
      exec (.frameRead ch) s = .next { s with rsp := s.rsp ++ [⟨.errNoFrame, 0, 0, []⟩] })

/-- WRITE_RAW (41_channel.md R157, R158): the request joins WRQ, and the bytes join TXQ when the channel is wired or
CONNECTED; nothing else changes. -/
def Obligations.WriteRawResult : Prop :=
  ∀ (ch : ChannelIx) (bs : List Byte) (s : State) (c : Channel), s.chan? ch.val = some c →
    ((c.adapter = .wired ∨ ∃ sel, c.adapter = .wireless .connected sel) →
      exec (.writeRaw ch bs) s =
        .next { s with
          chans := s.chans.set ch.val { c with wrq := c.wrq ++ [bs], txq := c.txq ++ bs }
          rsp := s.rsp ++ [⟨.ok, 0, 0, []⟩] }) ∧
    (∀ cs sel, c.adapter = .wireless cs sel → cs ≠ .connected →
      exec (.writeRaw ch bs) s =
        .next { s with
          chans := s.chans.set ch.val { c with wrq := c.wrq ++ [bs] }
          rsp := s.rsp ++ [⟨.ok, 0, 0, []⟩] })

/-- IS_CONNECTED (41_channel.md R153, R159): 1 on a wired channel and on a wireless one in CONNECTED, else 0; no state is
written. -/
def Obligations.IsConnectedResult : Prop :=
  ∀ (ch : ChannelIx) (s : State) (c : Channel), s.chan? ch.val = some c →
    ((c.adapter = .wired ∨ ∃ sel, c.adapter = .wireless .connected sel) →
      exec (.isConnected ch) s = .next { s with rsp := s.rsp ++ [⟨.ok, 1, 0, []⟩] }) ∧
    (∀ cs sel, c.adapter = .wireless cs sel → cs ≠ .connected →
      exec (.isConnected ch) s = .next { s with rsp := s.rsp ++ [⟨.ok, 0, 0, []⟩] })

/-- STATUS (41_channel.md R160): the response holds a word with the fields of 10_state.md R38 and LEN; no state is written.
REM is at most 254 by R25. -/
def Obligations.StatusResult : Prop :=
  ∀ (ch : ChannelIx) (s : State) (c : Channel), s.chan? ch.val = some c → c.dec.rem ≤ 254 →
    ∃ w : Word,
      exec (.status ch) s =
        .next { s with rsp := s.rsp ++ [⟨.ok, w, BitVec.ofNat 32 c.dec.buf.length, []⟩] } ∧
      (c.adapter = .wired →
        w.extractLsb' 0 1 = 0#1 ∧ w.extractLsb' 1 1 = 1#1 ∧ w.extractLsb' 2 3 = 0#3 ∧ w.extractLsb' 5 3 = 0#3) ∧
      (∀ cs sel, c.adapter = .wireless cs sel →
        w.extractLsb' 0 1 = 1#1 ∧ (w.extractLsb' 1 1 = 1#1 ↔ cs = .connected) ∧
        (w.extractLsb' 2 3).toNat = cs.ordinal ∧ (w.extractLsb' 5 3).toNat = sel.val) ∧
      (c.dec.phase = .idle → w.extractLsb' 8 2 = 0#2) ∧ (c.dec.phase = .marker → w.extractLsb' 8 2 = 1#2) ∧
      (c.dec.phase = .run → w.extractLsb' 8 2 = 2#2) ∧ (c.dec.phase = .hunt → w.extractLsb' 8 2 = 3#2) ∧
      w.extractLsb' 10 1 = BitVec.ofBool c.dec.ready ∧
      w.extractLsb' 11 1 = BitVec.ofBool c.dec.zp ∧
      w.extractLsb' 12 1 = BitVec.ofBool c.dec.full ∧
      w.extractLsb' 13 3 = 0#3 ∧
      (w.extractLsb' 16 8).toNat = c.dec.rem ∧
      w.extractLsb' 24 8 = 0#8

/-- WRITE (43_mux.md R215, R216): every channel's WRQ gains the bytes as one entry, connected or not; TXQ gains them on the
wired and the CONNECTED channels; nothing else changes. -/
def Obligations.WriteResult : Prop :=
  ∀ (bs : List Byte) (s : State), ∃ chans' : List Channel,
    exec (.write bs) s = .next { s with chans := chans', rsp := s.rsp ++ [⟨.ok, 0, 0, []⟩] } ∧
    chans'.length = s.nch ∧
    ∀ (k : Nat) (c : Channel), s.chan? k = some c →
      ((c.adapter = .wired ∨ ∃ sel, c.adapter = .wireless .connected sel) →
        chans'[k]? = some { c with wrq := c.wrq ++ [bs], txq := c.txq ++ bs }) ∧
      (∀ cs sel, c.adapter = .wireless cs sel → cs ≠ .connected →
        chans'[k]? = some { c with wrq := c.wrq ++ [bs] })

/-- POLL (43_mux.md R210, R213; 20_memory.md R62): it always answers; v0 is the number of frames delivered where 32 bits hold
it; the deliveries come in ascending channel order, those of each channel being the frames of its drain in order; each
channel becomes what its drain leaves; nothing else changes. -/
def Obligations.PollResult : Prop :=
  ∀ s : State, ∃ (t : State) (ds : List Delivery) (v0 : Word),
    exec .poll s = .next t ∧
    t.dlv = s.dlv ++ ds ∧ t.rsp = s.rsp ++ [⟨.ok, v0, 0, []⟩] ∧ t.cfg = s.cfg ∧ t.inputs = s.inputs ∧
    (ds.length < 2 ^ 32 → v0 = BitVec.ofNat 32 ds.length) ∧
    (ds.map Delivery.ch).Pairwise (· ≤ ·) ∧ (∀ d ∈ ds, d.ch < s.nch) ∧ t.nch = s.nch ∧
    ∀ (k : Nat) (c : Channel), s.chan? k = some c →
      t.chan? k = some (c.poll s.cfg).chan ∧
      (ds.filter fun d => d.ch == k).map Delivery.payload = (c.poll s.cfg).payloads

/-! What the receive path does (41_channel.md R154, 43_mux.md R211). -/

/-- What TryRead does with the receive queue (R154): first the matcher takes `matched`, up to the byte that connects, nothing
of it on a connected channel; then the released decoder takes `decoded`, up to the delimiter of the first frame that
completes, or all that is left when none does; the bytes after them stay. Answer and READY say whether a frame completed.
The configuration lines are sent once on an unconnected wireless channel (42_bringup.md R186), never on a connected
one (R190); the request trace stays. -/
def Obligations.TryReadConsumes : Prop :=
  ∀ (cfg : Config) (c : Channel),
    (c.tryRead cfg).chan.dec.ready = (c.tryRead cfg).ready ∧
    (c.tryRead cfg).chan.wrq = c.wrq ∧
    ∃ matched decoded : List Byte, c.rxq = matched ++ decoded ++ (c.tryRead cfg).chan.rxq ∧
      (c.connected = true →
        matched = [] ∧ (c.tryRead cfg).chan.adapter = c.adapter ∧ (c.tryRead cfg).chan.txq = c.txq) ∧
      (∀ cs sel, c.adapter = .wireless cs sel → cs ≠ .connected →
        (c.tryRead cfg).chan.adapter = .wireless (matched.foldl ConnState.matchByte cs) sel ∧
        (∀ k < matched.length, (matched.take k).foldl ConnState.matchByte cs ≠ .connected) ∧
        (decoded ≠ [] → ConnectsAtLast cs matched) ∧
        (c.tryRead cfg).chan.txq = c.txq ++ configLines cfg sel) ∧
      (c.tryRead cfg).chan.dec = (c.dec.release.feed (decCap cfg) decoded).1 ∧
      ((c.tryRead cfg).ready = true →
        CompletesAtLast (decCap cfg) c.dec.release decoded ∧ decoded.getLast? = some 0x00#8) ∧
      ((c.tryRead cfg).ready = false →
        DecodeCode.complete ∉ (c.dec.release.feed (decCap cfg) decoded).2 ∧ (c.tryRead cfg).chan.rxq = [])

/-- TRY_READ on a connected channel (R154, R155, R269, 40_codec.md R118), whatever its decoder holds: a frame still held is
dropped, a partial frame is kept and goes on. When bytes at the head of the receive queue complete a frame with their last
byte only, they are fed to the decoder and the rest stays; when no frame completes, the whole queue is fed; the adapter and
the transmit trace stay. In particular, with the decoder at a frame boundary, the frame of an allowed payload at the head of
the queue makes that payload the view. -/
def Obligations.TryReadDecodesFrame : Prop :=
  ∀ (ch : ChannelIx) (s : State) (c : Channel), s.chan? ch.val = some c → c.connected = true →
    (∀ used rest : List Byte, c.rxq = used ++ rest → CompletesAtLast (decCap s.cfg) c.dec.release used →
      exec (.tryRead ch) s =
        .next { s with
          chans := s.chans.set ch.val
            { c with dec := (c.dec.release.feed (decCap s.cfg) used).1, rxq := rest }
          rsp := s.rsp ++
            [⟨.ok, 1, BitVec.ofNat 32 (c.dec.release.feed (decCap s.cfg) used).1.buf.length, []⟩] }) ∧
    (DecodeCode.complete ∉ (c.dec.release.feed (decCap s.cfg) c.rxq).2 →
      exec (.tryRead ch) s =
        .next { s with
          chans := s.chans.set ch.val
            { c with dec := (c.dec.release.feed (decCap s.cfg) c.rxq).1, rxq := [] }
          rsp := s.rsp ++ [⟨.ok, 0, 0, []⟩] }) ∧
    (∀ payload rest : List Byte, c.dec.Invariant → c.dec.phase = .idle → payload.length ≤ s.cfg.nMax →
      c.rxq = encodeFrame payload ++ rest →
        exec (.tryRead ch) s =
          .next { s with
            chans := s.chans.set ch.val { c with dec := Decoder.holding payload, rxq := rest }
            rsp := s.rsp ++ [⟨.ok, 1, BitVec.ofNat 32 payload.length, []⟩] })

/-- A read on an unconnected wireless channel whose bytes do not connect it (R154, 42_bringup.md R186, R187, R191): the
configuration lines are sent once more, every byte goes to the matcher and none to the decoder, and no frame is ready.
(That a fold which reaches CONNECTED stays there, so that the premise excludes every connecting prefix, is log 18.) -/
def Obligations.UnconnectedReadFeedsMatcher : Prop :=
  ∀ (cfg : Config) (c : Channel) (cs : ConnState) (sel : Selector), c.adapter = .wireless cs sel →
    c.rxq.foldl ConnState.matchByte cs ≠ .connected →
      c.tryRead cfg =
        ⟨false,
          { dec := c.dec.release
            adapter := .wireless (c.rxq.foldl ConnState.matchByte cs) sel
            rxq := []
            txq := c.txq ++ configLines cfg sel
            wrq := c.wrq }⟩

/-- One call can both connect and return a frame (R154, 42_bringup.md R186, R189, R190). From every unconnected state, when
bytes at the head of the receive queue connect with their last byte only, the configuration lines are sent once and the
rest of the queue is drained as on a connected channel; a frame of an allowed payload behind such bytes becomes the view.
From INITIAL the confirmation is such bytes. -/
def Obligations.HandshakeThenFrame : Prop :=
  (∀ (cfg : Config) (c : Channel) (cs : ConnState) (sel : Selector) (matched rest : List Byte),
    c.adapter = .wireless cs sel → cs ≠ .connected → ConnectsAtLast cs matched → c.rxq = matched ++ rest →
      c.tryRead cfg =
        Channel.tryRead cfg
          { c with adapter := .wireless .connected sel, rxq := rest, txq := c.txq ++ configLines cfg sel }) ∧
  (∀ (ch : ChannelIx) (s : State) (c : Channel) (cs : ConnState) (sel : Selector) (matched payload rest : List Byte),
    s.chan? ch.val = some c → c.adapter = .wireless cs sel → cs ≠ .connected → ConnectsAtLast cs matched →
    c.dec.Invariant → c.dec.phase = .idle → payload.length ≤ s.cfg.nMax →
    c.rxq = matched ++ encodeFrame payload ++ rest →
      exec (.tryRead ch) s =
        .next { s with
          chans := s.chans.set ch.val
            { dec := Decoder.holding payload
              adapter := .wireless .connected sel
              rxq := rest
              txq := c.txq ++ configLines s.cfg sel
              wrq := c.wrq }
          rsp := s.rsp ++ [⟨.ok, 1, BitVec.ofNat 32 payload.length, []⟩] }) ∧
  ConnectsAtLast .initial [0x0D#8, 0x0A#8, 0x43#8, 0x4F#8, 0x4E#8, 0x0D#8, 0x0A#8]

/-- What POLL does to one channel, which PollResult says is what becomes of it (43_mux.md R211, 41_channel.md R154, 40_codec.md
R118, 42_bringup.md R186, R190): on a connected channel, bytes at the head of the queue that complete a frame with their last
byte only deliver the buffer they leave, and the poll goes on with the rest; when no frame completes, the whole queue is fed
and the partial frame is kept. On an unconnected wireless channel the configuration lines are sent once and the matcher
takes the bytes up to the one that connects, or all of them. (In the last clause a fold that reaches CONNECTED stays
there: log 18.) -/
def Obligations.PollOfOneChannel : Prop :=
  ∀ (cfg : Config) (c : Channel),
    (c.connected = true →
      (∀ used rest : List Byte, c.rxq = used ++ rest → CompletesAtLast (decCap cfg) c.dec.release used →
        c.poll cfg =
          ⟨(Channel.poll cfg { c with dec := (c.dec.release.feed (decCap cfg) used).1, rxq := rest }).chan,
            (c.dec.release.feed (decCap cfg) used).1.buf ::
              (Channel.poll cfg { c with dec := (c.dec.release.feed (decCap cfg) used).1, rxq := rest }).payloads⟩) ∧
      (DecodeCode.complete ∉ (c.dec.release.feed (decCap cfg) c.rxq).2 →
        c.poll cfg = ⟨{ c with dec := (c.dec.release.feed (decCap cfg) c.rxq).1, rxq := [] }, []⟩)) ∧
    (∀ cs sel, c.adapter = .wireless cs sel → cs ≠ .connected →
      (∀ matched rest : List Byte, c.rxq = matched ++ rest → ConnectsAtLast cs matched →
        c.poll cfg =
          Channel.poll cfg
            { c with adapter := .wireless .connected sel, rxq := rest, txq := c.txq ++ configLines cfg sel }) ∧
      (c.rxq.foldl ConnState.matchByte cs ≠ .connected →
        c.poll cfg =
          ⟨{ dec := c.dec.release
             adapter := .wireless (c.rxq.foldl ConnState.matchByte cs) sel
             rxq := []
             txq := c.txq ++ configLines cfg sel
             wrq := c.wrq }, []⟩))

/-- After a POLL every receive queue is empty and no view is held (43_mux.md R211). -/
def Obligations.PollEmptiesChannels : Prop :=
  ∀ s t : State, exec .poll s = .next t → ∀ c ∈ t.chans, c.rxq = [] ∧ c.dec.ready = false

/-- POLL over connected channels whose receive queues hold frames, with any number of stray delimiters before each frame:
exactly the payloads of the frames are delivered, by ascending channel and in arrival order within a channel, and every
decoder is left as after reset (43_mux.md R211, R213; 20_memory.md R62; 40_codec.md R122). `queued` lists, for each channel,
the frames of its queue: the number of stray delimiters, and the payload. -/
def Obligations.PollDeliversQueuedFrames : Prop :=
  ∀ (s : State) (queued : List (List (Nat × List Byte))),
    List.Forall₂ (fun (c : Channel) (q : List (Nat × List Byte)) =>
      c.connected = true ∧ c.dec.Invariant ∧ c.dec.phase = .idle ∧
      (∀ f ∈ q, f.2.length ≤ s.cfg.nMax) ∧
      c.rxq = q.flatMap fun f => List.replicate f.1 0x00#8 ++ encodeFrame f.2) s.chans queued →
    ∃ t : State, exec .poll s = .next t ∧
      t.dlv = s.dlv ++ queued.zipIdx.flatMap (fun p => p.1.map fun f => Delivery.mk p.2 f.2) ∧
      ∀ c ∈ t.chans, c.rxq = [] ∧ c.dec = Decoder.reset

/-- Resynchronisation: whatever a connected channel received before, a delimiter followed by the frame of an allowed payload
makes that payload the last one that POLL delivers from the channel (40_codec.md R112, R113, R116, R122). -/
def Obligations.FrameAfterNoiseDelivered : Prop :=
  ∀ (s : State) (k : Nat) (c : Channel) (noise payload : List Byte), s.chan? k = some c →
    c.connected = true → c.dec.Invariant → payload.length ≤ s.cfg.nMax →
    c.rxq = noise ++ [0x00#8] ++ encodeFrame payload →
      ∃ (t : State) (ds : List Delivery), exec .poll s = .next t ∧ t.dlv = s.dlv ++ ds ∧
        (ds.filter fun d => d.ch == k).getLast? = some (Delivery.mk k payload)

/-! Errors and frames over all commands (60_exceptions.md). -/

/-- ERR_CHANNEL (R232): every channel command that names CH >= NCH is answered with status 0x02, and nothing but the response
changes. -/
def Obligations.AbsentChannelAnswered : Prop :=
  Status.errChannel.code = 0x02#8 ∧
  ∀ (i : Instr) (n : Nat) (s : State), namedChannel i = some n → s.nch ≤ n →
    exec i s = .next { s with rsp := s.rsp ++ [⟨.errChannel, 0, 0, []⟩] }

/-- The status codes (30_encoding.md R80) and their precedence (R237): every command is answered with exactly one response,
and its status is the first that applies: ILLEGAL, CHANNEL, LENGTH, then BUSY or NOFRAME. -/
def Obligations.StatusPrecedence : Prop :=
  (Status.ok.code = 0x00#8 ∧ Status.errIllegal.code = 0x01#8 ∧ Status.errChannel.code = 0x02#8 ∧
    Status.errLength.code = 0x03#8 ∧ Status.errBusy.code = 0x04#8 ∧ Status.errNoFrame.code = 0x05#8) ∧
  ∀ (c : Command) (s : State), ∃ (t : State) (r : Response),
    issue c s = .next t ∧ t.rsp = s.rsp ++ [r] ∧
    ((¬ LegalCommand c ∧ r.status = .errIllegal) ∨
      (LegalCommand c ∧ ∃ i, decode c = .ok i ∧ r.status = requiredStatus i s))

/-- A command answered with any error status changes no state: only the response is added, and it carries nothing else
(R236; 30_encoding.md R79). -/
def Obligations.ErrorsChangeNothing : Prop :=
  ∀ (c : Command) (s t : State) (r : Response), issue c s = .next t → t.rsp = s.rsp ++ [r] → r.status ≠ .ok →
    t = { s with rsp := s.rsp ++ [⟨r.status, 0, 0, []⟩] }

/-- ENCODE, FRAME_READ, IS_CONNECTED and STATUS change no state: nothing but the response is added (20_memory.md R58). -/
def Obligations.ReadingCommandsWriteNothing : Prop :=
  ∀ (i : Instr) (s t : State), i.op = .encode ∨ i.op = .frameRead ∨ i.op = .isConnected ∨ i.op = .status →
    exec i s = .next t → ∃ r : Response, t = { s with rsp := s.rsp ++ [r] }

/-- The frame of the channel commands: a command that names channel n leaves every other channel, the deliveries, the
parameters and the pending inputs as they are; on channel n, DEC_APPEND and DEC_RELEASE write the decoder alone, TRY_READ
does not write WRQ nor SEL, on a connected channel neither adapter nor TXQ, and on an unconnected one adds the configuration
lines to TXQ once (42_bringup.md R186, R190), and WRITE_RAW writes the two traces alone (40_codec.md R119, R120; 41_channel.md
R155, R158). -/
def Obligations.ChannelCommandFrame : Prop :=
  ∀ (i : Instr) (n : Nat) (s t : State), namedChannel i = some n → exec i s = .next t →
    t.cfg = s.cfg ∧ t.dlv = s.dlv ∧ t.inputs = s.inputs ∧ t.nch = s.nch ∧
    (∀ k, k ≠ n → t.chan? k = s.chan? k) ∧
    ∀ c, s.chan? n = some c → ∃ c', t.chan? n = some c' ∧
      (i.op = .decAppend ∨ i.op = .decRelease →
        c'.adapter = c.adapter ∧ c'.rxq = c.rxq ∧ c'.txq = c.txq ∧ c'.wrq = c.wrq) ∧
      (i.op = .tryRead →
        c'.wrq = c.wrq ∧
        (c.connected = true → c'.adapter = c.adapter ∧ c'.txq = c.txq) ∧
        (∀ cs sel, c.adapter = .wireless cs sel → cs ≠ .connected →
          (∃ cs', c'.adapter = .wireless cs' sel) ∧ c'.txq = c.txq ++ configLines s.cfg sel)) ∧
      (i.op = .writeRaw → c'.dec = c.dec ∧ c'.adapter = c.adapter ∧ c'.rxq = c.rxq) ∧
      (i.op = .frameRead ∨ i.op = .isConnected ∨ i.op = .status → c' = c)

/-- SEND (30_encoding.md R84): for a payload of at most N_MAX bytes whose frame fits a data phase, every channel's WRQ gains
the frame, and so does the TXQ of every connected channel. -/
def Obligations.SendBroadcastsFrame : Prop :=
  ∀ (payload : List Byte) (s : State), payload.length ≤ s.cfg.nMax → payload.length ≤ maxDataLength →
    (encodeFrame payload).length ≤ maxDataLength →
    ∃ t : State, runSend payload s = .next t ∧
      ∀ (k : Nat) (c : Channel), s.chan? k = some c →
        t.chan? k = some { c with
          wrq := c.wrq ++ [encodeFrame payload]
          txq := if c.connected then c.txq ++ encodeFrame payload else c.txq }

/-- FEED of the frame of an allowed payload to a decoder at a frame boundary that holds no frame: the channel's view is the
payload, and nothing but the decoder and the responses changes (30_encoding.md R84; 40_codec.md R119, R121). -/
def Obligations.FeedHoldsPayload : Prop :=
  ∀ (ch : ChannelIx) (payload : List Byte) (s : State) (c : Channel), s.chan? ch.val = some c →
    c.dec.Invariant → c.dec.phase = .idle → c.dec.ready = false → payload.length ≤ s.cfg.nMax →
    ∃ t : State, runFeed ch (encodeFrame payload) s = .next t ∧
      t.chans = s.chans.set ch.val { c with dec := Decoder.holding payload } ∧
      t.cfg = s.cfg ∧ t.dlv = s.dlv ∧ t.inputs = s.inputs ∧
      t.rsp.length = s.rsp.length + (encodeFrame payload).length
end

