-- ==== Sys2Proof/Laws/Codec.lean ====
section
/-! SUPPORT. Lemmas about the frame codec (40_codec.md): what each helper of the decoder step leaves, what one step can do,
and the encoder's equations. -/

namespace Sys2Proof.Machine

open Sys2Proof

/-! Helpers of the decoder step. -/

@[simp] theorem Decoder.startMarker_buf (d : Decoder) (m : Byte) : (d.startMarker m).buf = d.buf := by
  unfold Decoder.startMarker; split <;> rfl

@[simp] theorem Decoder.startMarker_ready (d : Decoder) (m : Byte) : (d.startMarker m).ready = d.ready := by
  unfold Decoder.startMarker; split <;> rfl

@[simp] theorem Decoder.startMarker_rem (d : Decoder) (m : Byte) : (d.startMarker m).rem = m.toNat - 1 := by
  unfold Decoder.startMarker; split <;> rfl

@[simp] theorem Decoder.startMarker_full (d : Decoder) (m : Byte) : (d.startMarker m).full = (m == fullMarker) := by
  unfold Decoder.startMarker; split <;> rfl

/-- StartMarker opens a run unless the marker is 0x01, whose empty run is complete at once (40_codec.md R110). -/
theorem Decoder.startMarker_phase (d : Decoder) (m : Byte) :
    (d.startMarker m).phase = if m.toNat - 1 = 0 then .marker else .run := by
  unfold Decoder.startMarker; split <;> simp_all

theorem Decoder.startMarker_zp (d : Decoder) (m : Byte) :
    (d.startMarker m).zp = if m.toNat - 1 = 0 then true else d.zp := by
  unfold Decoder.startMarker; split <;> simp_all

@[simp] theorem Decoder.discard_buf (d : Decoder) (ph : Phase) : (d.discard ph).buf = [] := rfl
@[simp] theorem Decoder.discard_rem (d : Decoder) (ph : Phase) : (d.discard ph).rem = 0 := rfl
@[simp] theorem Decoder.discard_full (d : Decoder) (ph : Phase) : (d.discard ph).full = false := rfl
@[simp] theorem Decoder.discard_zp (d : Decoder) (ph : Phase) : (d.discard ph).zp = false := rfl
@[simp] theorem Decoder.discard_phase (d : Decoder) (ph : Phase) : (d.discard ph).phase = ph := rfl
@[simp] theorem Decoder.discard_ready (d : Decoder) (ph : Phase) : (d.discard ph).ready = d.ready := rfl

/-! The release. -/

@[simp] theorem Decoder.release_ready (d : Decoder) : d.release.ready = false := by
  unfold Decoder.release; split <;> simp_all

@[simp] theorem Decoder.release_phase (d : Decoder) : d.release.phase = d.phase := by
  unfold Decoder.release; split <;> rfl

/-- With no frame held the release changes nothing (40_codec.md R118). -/
theorem Decoder.release_of_not_ready {d : Decoder} (h : d.ready = false) : d.release = d := by
  simp [Decoder.release, h]

/-! One step. -/

/-- What one decoder step can do: nothing completes and the frame flag stays (PENDING), the buffer becomes the view
(COMPLETE, from MARKER on the delimiter only), or the partial frame is thrown away (MALFORMED). -/
theorem Decoder.step_cases (cap : Nat) (d : Decoder) (b : Byte) :
    ((d.step cap b).2 = .pending ∧ (d.step cap b).1.ready = d.ready) ∨
      ((d.step cap b).2 = .complete ∧ d.phase = .marker ∧ b = delimiter ∧
        (d.step cap b).1 = { d with zp := false, full := false, rem := 0, phase := .idle, ready := true }) ∨
      ((d.step cap b).2 = .malformed ∧ ((d.step cap b).1 = d.discard .hunt ∨ (d.step cap b).1 = d.discard .idle)) := by
  unfold Decoder.step
  cases hp : d.phase with
  | idle => left; simp only [Decoder.stepIdle]; split <;> simp
  | hunt => left; simp only [Decoder.stepHunt]; split <;> simp
  | marker =>
    simp only [Decoder.stepMarker]
    split
    · right; left; simp_all
    · split
      · split
        · right; right; simp
        · left; simp
      · left; simp
  | run =>
    simp only [Decoder.stepRun]
    split
    · right; right; simp
    · split
      · right; right; simp
      · split
        · left; simp
        · left; simp

/-- COMPLETE is answered exactly when the delimiter ends a frame (40_codec.md R109, R114). -/
theorem Decoder.step_complete_iff (cap : Nat) (d : Decoder) (b : Byte) :
    (d.step cap b).2 = .complete ↔ d.phase = .marker ∧ b = delimiter := by
  constructor
  · intro h
    rcases d.step_cases cap b with ⟨h', -⟩ | ⟨-, hp, hb, -⟩ | ⟨h', -⟩
    · simp [h'] at h
    · exact ⟨hp, hb⟩
    · simp [h'] at h
  · rintro ⟨hp, rfl⟩
    simp [Decoder.step, hp, Decoder.stepMarker]

/-- A step from READY = 0 leaves READY = 1 exactly when it answers COMPLETE (40_codec.md R109, R114). -/
theorem Decoder.step_ready {d : Decoder} (h : d.ready = false) (cap : Nat) (b : Byte) :
    (d.step cap b).1.ready = true ↔ (d.step cap b).2 = .complete := by
  rcases d.step_cases cap b with ⟨h1, h2⟩ | ⟨h1, -, -, h2⟩ | ⟨h1, h2 | h2⟩ <;> simp [h1, h2, h]

/-! The encoder. -/

@[simp] theorem encodeFrom_nil (run : List Byte) (endedFull : Bool) :
    encodeFrom run endedFull [] = if endedFull then [delimiter] else markedRun run ++ [delimiter] := rfl

theorem encodeFrom_cons (run : List Byte) (endedFull : Bool) (b : Byte) (rest : List Byte) :
    encodeFrom run endedFull (b :: rest) =
      if b = delimiter then markedRun run ++ encodeFrom [] false rest
      else if (run ++ [b]).length = maxRun then fullMarker :: (run ++ [b]) ++ encodeFrom [] true rest
      else encodeFrom (run ++ [b]) false rest := rfl

/-! Feeding. -/

@[simp] theorem Decoder.feed_nil (cap : Nat) (d : Decoder) : d.feed cap [] = (d, []) := rfl

@[simp] theorem Decoder.feed_cons (cap : Nat) (d : Decoder) (b : Byte) (bs : List Byte) :
    d.feed cap (b :: bs) =
      (((d.step cap b).1.feed cap bs).1, (d.step cap b).2 :: ((d.step cap b).1.feed cap bs).2) := rfl

/-- Feeding a concatenation is feeding the parts in turn. -/
theorem Decoder.feed_append (cap : Nat) (d : Decoder) (xs ys : List Byte) :
    d.feed cap (xs ++ ys) =
      (((d.feed cap xs).1.feed cap ys).1, (d.feed cap xs).2 ++ ((d.feed cap xs).1.feed cap ys).2) := by
  induction xs generalizing d with
  | nil => rfl
  | cons b bs ih => simp [ih]

end Sys2Proof.Machine
end

