-- ==== Sys2Proof/Laws/Decode.lean ====
section
/-! SUPPORT. Lemmas about the command word: its four fields determine it (30_encoding.md R71), a packed word has the fields
it was packed from, and what a row of the match and mask table says of each field (R76). -/

namespace Sys2Proof

open BitVec

/-! Fields. -/

/-- Two words with the same four fields are equal. -/
theorem word_eq_of_fields {v w : Word} (hi : immField v = immField w) (hr : rsvField v = rsvField w)
    (hc : chField v = chField w) (ho : opField v = opField w) : v = w := by
  apply BitVec.eq_of_getLsbD_eq
  intro k hk
  have field : ∀ start len (j : Nat), j < len → start + j = k →
      extractLsb' start len v = extractLsb' start len w → v.getLsbD k = w.getLsbD k := by
    intro start len j hj hjk h
    have := congrArg (fun x => x.getLsbD j) h
    simpa [getLsbD_extractLsb', hj, hjk] using this
  by_cases h1 : k < 8
  · exact field 0 8 k h1 (by omega) ho
  by_cases h2 : k < 12
  · exact field 8 4 (k - 8) (by omega) (by omega) hc
  by_cases h3 : k < 16
  · exact field 12 4 (k - 12) (by omega) (by omega) hr
  · exact field 16 16 (k - 16) (by omega) (by omega) hi

@[simp] theorem opField_packWord (imm : BitVec 16) (ch : BitVec 4) (op : BitVec 8) :
    opField (packWord imm ch op) = op := by
  simp only [opField, packWord]
  rw [extractLsb'_append_eq_of_add_le (xhi := imm) (xlo := 0#4 ++ (ch ++ op)) (by omega),
    extractLsb'_append_eq_of_add_le (xhi := 0#4) (xlo := ch ++ op) (by omega),
    extractLsb'_append_eq_of_add_le (xhi := ch) (xlo := op) (by omega)]
  simp

@[simp] theorem chField_packWord (imm : BitVec 16) (ch : BitVec 4) (op : BitVec 8) :
    chField (packWord imm ch op) = ch := by
  simp only [chField, packWord]
  rw [extractLsb'_append_eq_of_add_le (xhi := imm) (xlo := 0#4 ++ (ch ++ op)) (by omega),
    extractLsb'_append_eq_of_add_le (xhi := 0#4) (xlo := ch ++ op) (by omega),
    extractLsb'_append_eq_of_le (xhi := ch) (xlo := op) (by omega)]
  simp

@[simp] theorem rsvField_packWord (imm : BitVec 16) (ch : BitVec 4) (op : BitVec 8) :
    rsvField (packWord imm ch op) = 0 := by
  simp only [rsvField, packWord]
  rw [extractLsb'_append_eq_of_add_le (xhi := imm) (xlo := 0#4 ++ (ch ++ op)) (by omega),
    extractLsb'_append_eq_of_le (xhi := 0#4) (xlo := ch ++ op) (by omega)]
  simp

@[simp] theorem immField_packWord (imm : BitVec 16) (ch : BitVec 4) (op : BitVec 8) :
    immField (packWord imm ch op) = imm := by
  simp only [immField, packWord]
  rw [extractLsb'_append_eq_of_le (xhi := imm) (xlo := 0#4 ++ (ch ++ op)) (by omega)]
  simp

@[simp] theorem opField_and (v w : Word) : opField (v &&& w) = opField v &&& opField w := extractLsb'_and
@[simp] theorem chField_and (v w : Word) : chField (v &&& w) = chField v &&& chField w := extractLsb'_and
@[simp] theorem rsvField_and (v w : Word) : rsvField (v &&& w) = rsvField v &&& rsvField w := extractLsb'_and
@[simp] theorem immField_and (v w : Word) : immField (v &&& w) = immField v &&& immField w := extractLsb'_and

/-! Well-formedness, one lemma for each command with a data phase; the others are always well-formed. -/

@[simp] theorem Instr.wellFormed_encode (payload : List Byte) :
    (Instr.encode payload).wellFormed = true ↔ payload.length ≤ maxDataLength := by simp [Instr.wellFormed]

@[simp] theorem Instr.wellFormed_writeRaw (ch : ChannelIx) (bs : List Byte) :
    (Instr.writeRaw ch bs).wellFormed = true ↔ bs.length ≤ maxDataLength := by simp [Instr.wellFormed]

@[simp] theorem Instr.wellFormed_write (bs : List Byte) :
    (Instr.write bs).wellFormed = true ↔ bs.length ≤ maxDataLength := by simp [Instr.wellFormed]

/-- A data phase that the port can carry has its length in IMM (30_encoding.md R74). -/
theorem toNat_length_of_le {bs : List Byte} (h : bs.length ≤ maxDataLength) :
    (BitVec.ofNat 16 bs.length).toNat = bs.length := by
  rw [BitVec.toNat_ofNat]
  exact Nat.mod_eq_of_lt (Nat.lt_succ_of_le h)

/-! Rows. -/

/-- A row selects a word when each field of the word, masked, equals the row's field. -/
theorem OpRow.selects_iff (r : OpRow) (w : Word) :
    r.selects w = true ↔
      immField w &&& immField r.mask = immField r.pattern ∧ rsvField w &&& rsvField r.mask = rsvField r.pattern ∧
        chField w &&& chField r.mask = chField r.pattern ∧ opField w &&& opField r.mask = opField r.pattern := by
  simp only [OpRow.selects, beq_iff_eq]
  constructor
  · intro h
    rw [← h]
    simp
  · rintro ⟨h1, h2, h3, h4⟩
    exact word_eq_of_fields (by simpa using h1) (by simpa using h2) (by simpa using h3) (by simpa using h4)

/-- Every row looks at the whole of OP and of RSV, and requires RSV = 0 (30_encoding.md R76). -/
theorem opTable_covers_op : ∀ r ∈ opTable, opField r.mask = 0xFF#8 ∧ rsvField r.mask = 0xF#4 ∧
    rsvField r.pattern = 0#4 ∧ opField r.pattern = r.op.code := by decide

/-- The opcode values differ (30_encoding.md R75). -/
theorem Op.code_injective : ∀ o p : Op, o.code = p.code → o = p := by
  intro o p
  cases o <;> cases p <;> first | (intro; rfl) | (intro h; exact absurd h (by decide))

/-- A row that selects a word has the word's opcode, and the word's RSV is 0. -/
theorem OpRow.op_of_selects {r : OpRow} (hr : r ∈ opTable) {w : Word} (h : r.selects w = true) :
    opField w = r.op.code ∧ rsvField w = 0#4 := by
  obtain ⟨m1, m2, p1, p2⟩ := opTable_covers_op r hr
  obtain ⟨-, h2, -, h4⟩ := (r.selects_iff w).1 h
  rw [m1, p2] at h4
  rw [m2, p1] at h2
  have all8 : ∀ x : BitVec 8, x &&& 0xFF#8 = x := by intro x; simpa using BitVec.and_allOnes (x := x)
  have all4 : ∀ x : BitVec 4, x &&& 0xF#4 = x := by intro x; simpa using BitVec.and_allOnes (x := x)
  exact ⟨by rw [← h4, all8], by rw [← h2, all4]⟩

/-- The rows have pairwise different opcodes. -/
theorem opTable_op_injective : ∀ r ∈ opTable, ∀ q ∈ opTable, r.op = q.op → r = q := by decide

/-- A row of the table that selects a word is the row the decoder finds. -/
theorem selectOp_of_selects {r : OpRow} (hr : r ∈ opTable) {w : Word} (h : r.selects w = true) :
    selectOp w = some r.op := by
  have hsome : (opTable.find? (·.selects w)).isSome := List.find?_isSome.2 ⟨r, hr, h⟩
  obtain ⟨q, hq⟩ := Option.isSome_iff_exists.1 hsome
  have hqm := List.mem_of_find?_eq_some hq
  have hqs := List.find?_some hq
  have : q.op = r.op := Op.code_injective _ _ ((OpRow.op_of_selects hqm hqs).1.symm.trans (OpRow.op_of_selects hr h).1)
  simp [selectOp, hq, this]

/-- What the decoder finds is a row of the table that selects the word. -/
theorem selects_of_selectOp {w : Word} {o : Op} (h : selectOp w = some o) :
    ∃ r ∈ opTable, r.op = o ∧ r.selects w = true := by
  simp only [selectOp, Option.map_eq_some_iff] at h
  obtain ⟨r, hr, rfl⟩ := h
  exact ⟨r, List.mem_of_find?_eq_some hr, rfl, by simpa using List.find?_some (p := fun x : OpRow => x.selects w) hr⟩

end Sys2Proof
end

