-- ==== Sys2Proof/Laws/State.lean ====
section
/-! SUPPORT. One lemma per field per update of `State` and `Channel`, true by rfl, so that no later proof unfolds a record
update. -/

namespace Sys2Proof.Machine

open Sys2Proof

/-! Updates of the state. -/

@[simp] theorem State.respond_cfg (s : State) (r : Response) : (s.respond r).cfg = s.cfg := rfl
@[simp] theorem State.respond_chans (s : State) (r : Response) : (s.respond r).chans = s.chans := rfl
@[simp] theorem State.respond_dlv (s : State) (r : Response) : (s.respond r).dlv = s.dlv := rfl
@[simp] theorem State.respond_rsp (s : State) (r : Response) : (s.respond r).rsp = s.rsp ++ [r] := rfl
@[simp] theorem State.respond_inputs (s : State) (r : Response) : (s.respond r).inputs = s.inputs := rfl

@[simp] theorem State.reject_cfg (s : State) (st : Status) : (s.reject st).cfg = s.cfg := rfl
@[simp] theorem State.reject_chans (s : State) (st : Status) : (s.reject st).chans = s.chans := rfl
@[simp] theorem State.reject_dlv (s : State) (st : Status) : (s.reject st).dlv = s.dlv := rfl
@[simp] theorem State.reject_rsp (s : State) (st : Status) : (s.reject st).rsp = s.rsp ++ [Response.error st] := rfl
@[simp] theorem State.reject_inputs (s : State) (st : Status) : (s.reject st).inputs = s.inputs := rfl

@[simp] theorem State.answer_cfg (s : State) (v0 v1 : Word) (data : List Byte) : (s.answer v0 v1 data).cfg = s.cfg := rfl
@[simp] theorem State.answer_chans (s : State) (v0 v1 : Word) (data : List Byte) : (s.answer v0 v1 data).chans = s.chans := rfl
@[simp] theorem State.answer_dlv (s : State) (v0 v1 : Word) (data : List Byte) : (s.answer v0 v1 data).dlv = s.dlv := rfl
@[simp] theorem State.answer_rsp (s : State) (v0 v1 : Word) (data : List Byte) : (s.answer v0 v1 data).rsp = s.rsp ++ [Response.performed v0 v1 data] := rfl
@[simp] theorem State.answer_inputs (s : State) (v0 v1 : Word) (data : List Byte) : (s.answer v0 v1 data).inputs = s.inputs := rfl

@[simp] theorem State.setChan_cfg (s : State) (ch : Nat) (c : Channel) : (s.setChan ch c).cfg = s.cfg := rfl
@[simp] theorem State.setChan_chans (s : State) (ch : Nat) (c : Channel) : (s.setChan ch c).chans = s.chans.set ch c := rfl
@[simp] theorem State.setChan_dlv (s : State) (ch : Nat) (c : Channel) : (s.setChan ch c).dlv = s.dlv := rfl
@[simp] theorem State.setChan_rsp (s : State) (ch : Nat) (c : Channel) : (s.setChan ch c).rsp = s.rsp := rfl
@[simp] theorem State.setChan_inputs (s : State) (ch : Nat) (c : Channel) : (s.setChan ch c).inputs = s.inputs := rfl

@[simp] theorem State.deliver_cfg (s : State) (ds : List Delivery) : (s.deliver ds).cfg = s.cfg := rfl
@[simp] theorem State.deliver_chans (s : State) (ds : List Delivery) : (s.deliver ds).chans = s.chans := rfl
@[simp] theorem State.deliver_dlv (s : State) (ds : List Delivery) : (s.deliver ds).dlv = s.dlv ++ ds := rfl
@[simp] theorem State.deliver_rsp (s : State) (ds : List Delivery) : (s.deliver ds).rsp = s.rsp := rfl
@[simp] theorem State.deliver_inputs (s : State) (ds : List Delivery) : (s.deliver ds).inputs = s.inputs := rfl

@[simp] theorem State.taken_cfg (s : State) : (s.taken).cfg = s.cfg := rfl
@[simp] theorem State.taken_chans (s : State) : (s.taken).chans = s.chans := rfl
@[simp] theorem State.taken_dlv (s : State) : (s.taken).dlv = s.dlv := rfl
@[simp] theorem State.taken_rsp (s : State) : (s.taken).rsp = s.rsp := rfl
@[simp] theorem State.taken_inputs (s : State) : (s.taken).inputs = s.inputs.tail := rfl

@[simp] theorem State.offer_cfg (s : State) (i : Input) : (s.offer i).cfg = s.cfg := rfl
@[simp] theorem State.offer_chans (s : State) (i : Input) : (s.offer i).chans = s.chans := rfl
@[simp] theorem State.offer_dlv (s : State) (i : Input) : (s.offer i).dlv = s.dlv := rfl
@[simp] theorem State.offer_rsp (s : State) (i : Input) : (s.offer i).rsp = s.rsp := rfl
@[simp] theorem State.offer_inputs (s : State) (i : Input) : (s.offer i).inputs = i :: s.inputs := rfl

@[simp] theorem State.restart_cfg (s : State) : (s.restart).cfg = s.cfg := rfl
@[simp] theorem State.restart_chans (s : State) : (s.restart).chans = s.cfg.channels.map (Channel.construct s.cfg) := rfl
@[simp] theorem State.restart_dlv (s : State) : (s.restart).dlv = [] := rfl
@[simp] theorem State.restart_rsp (s : State) : (s.restart).rsp = [] := rfl
@[simp] theorem State.restart_inputs (s : State) : (s.restart).inputs = s.inputs := rfl

@[simp] theorem State.resetOf_cfg (cfg : Config) : (State.resetOf cfg).cfg = cfg := rfl
@[simp] theorem State.resetOf_chans (cfg : Config) :
    (State.resetOf cfg).chans = cfg.channels.map (Channel.construct cfg) := rfl
@[simp] theorem State.resetOf_dlv (cfg : Config) : (State.resetOf cfg).dlv = [] := rfl
@[simp] theorem State.resetOf_rsp (cfg : Config) : (State.resetOf cfg).rsp = [] := rfl
@[simp] theorem State.resetOf_inputs (cfg : Config) : (State.resetOf cfg).inputs = [] := rfl

/-! Looking up a channel. -/

@[simp] theorem State.chan?_respond (s : State) (r : Response) (k : Nat) : (s.respond r).chan? k = s.chan? k := rfl
@[simp] theorem State.chan?_reject (s : State) (st : Status) (k : Nat) : (s.reject st).chan? k = s.chan? k := rfl
@[simp] theorem State.chan?_answer (s : State) (v0 v1 : Word) (data : List Byte) (k : Nat) :
    (s.answer v0 v1 data).chan? k = s.chan? k := rfl
@[simp] theorem State.chan?_deliver (s : State) (ds : List Delivery) (k : Nat) : (s.deliver ds).chan? k = s.chan? k := rfl
@[simp] theorem State.chan?_taken (s : State) (k : Nat) : s.taken.chan? k = s.chan? k := rfl
@[simp] theorem State.chan?_offer (s : State) (i : Input) (k : Nat) : (s.offer i).chan? k = s.chan? k := rfl
@[simp] theorem State.nch_respond (s : State) (r : Response) : (s.respond r).nch = s.nch := rfl
@[simp] theorem State.nch_reject (s : State) (st : Status) : (s.reject st).nch = s.nch := rfl
@[simp] theorem State.nch_answer (s : State) (v0 v1 : Word) (data : List Byte) : (s.answer v0 v1 data).nch = s.nch := rfl
@[simp] theorem State.nch_taken (s : State) : s.taken.nch = s.nch := rfl

@[simp] theorem State.nch_setChan (s : State) (ch : Nat) (c : Channel) : (s.setChan ch c).nch = s.nch := by
  simp [State.nch]

/-- A channel exists when its index is below NCH. -/
theorem State.chan?_isSome_iff (s : State) (k : Nat) : (∃ c, s.chan? k = some c) ↔ k < s.nch := by
  simp [State.chan?, State.nch, List.getElem?_eq_some_iff]

/-- A channel is absent when its index is NCH or more. -/
theorem State.chan?_eq_none_iff (s : State) (k : Nat) : s.chan? k = none ↔ s.nch ≤ k := by
  simp [State.chan?, State.nch]

/-- The channel just replaced. -/
theorem State.chan?_setChan_self (s : State) {ch : Nat} (c : Channel) (h : ch < s.nch) :
    (s.setChan ch c).chan? ch = some c := by
  have : ch < s.chans.length := h
  simp [State.chan?, this]

/-- Replacing one channel leaves the others. -/
theorem State.chan?_setChan_ne (s : State) {ch k : Nat} (c : Channel) (h : ch ≠ k) :
    (s.setChan ch c).chan? k = s.chan? k := by
  simp [State.chan?, List.getElem?_set_ne h]

/-! Updates of a channel. -/

@[simp] theorem Channel.emitTx_dec (c : Channel) (bs : List Byte) : (c.emitTx bs).dec = c.dec := rfl
@[simp] theorem Channel.emitTx_adapter (c : Channel) (bs : List Byte) : (c.emitTx bs).adapter = c.adapter := rfl
@[simp] theorem Channel.emitTx_rxq (c : Channel) (bs : List Byte) : (c.emitTx bs).rxq = c.rxq := rfl
@[simp] theorem Channel.emitTx_txq (c : Channel) (bs : List Byte) : (c.emitTx bs).txq = c.txq ++ bs := rfl
@[simp] theorem Channel.emitTx_wrq (c : Channel) (bs : List Byte) : (c.emitTx bs).wrq = c.wrq := rfl

@[simp] theorem Channel.emitWrq_dec (c : Channel) (bs : List Byte) : (c.emitWrq bs).dec = c.dec := rfl
@[simp] theorem Channel.emitWrq_adapter (c : Channel) (bs : List Byte) : (c.emitWrq bs).adapter = c.adapter := rfl
@[simp] theorem Channel.emitWrq_rxq (c : Channel) (bs : List Byte) : (c.emitWrq bs).rxq = c.rxq := rfl
@[simp] theorem Channel.emitWrq_txq (c : Channel) (bs : List Byte) : (c.emitWrq bs).txq = c.txq := rfl
@[simp] theorem Channel.emitWrq_wrq (c : Channel) (bs : List Byte) : (c.emitWrq bs).wrq = c.wrq ++ [bs] := rfl

@[simp] theorem Channel.tryRead_wrq (cfg : Config) (c : Channel) : (c.tryRead cfg).chan.wrq = c.wrq := rfl
@[simp] theorem Channel.tryRead_txq (cfg : Config) (c : Channel) :
    (c.tryRead cfg).chan.txq = c.txq ++ c.adapter.resendTx cfg := rfl

end Sys2Proof.Machine
end

