-- ==== Sys2Proof/Laws/Ops.lean ====
section
/-! SUPPORT. One lemma for each shared operation that says what it can do: the operand forms, the adapter write, the
arrival, the drain of TryRead, the loop of a poll. -/

namespace Sys2Proof.Machine

open Sys2Proof

/-! Operand forms. -/

/-- A channel command on an existing channel. -/
theorem State.onChannel_of_some {s : State} {ch : ChannelIx} {c : Channel} (h : s.chan? ch.val = some c)
    (perform : Channel → State) : s.onChannel ch perform = perform c := by
  simp [State.onChannel, h]

/-- A channel command on an absent channel (60_exceptions.md R232). -/
theorem State.onChannel_of_none {s : State} {ch : ChannelIx} (h : s.chan? ch.val = none)
    (perform : Channel → State) : s.onChannel ch perform = s.reject .errChannel := by
  simp [State.onChannel, h]

/-- Everything a channel command can do. -/
theorem State.onChannel_cases (s : State) (ch : ChannelIx) (perform : Channel → State) :
    (s.nch ≤ ch.val ∧ s.onChannel ch perform = s.reject .errChannel) ∨
      (∃ c, s.chan? ch.val = some c ∧ s.onChannel ch perform = perform c) := by
  cases h : s.chan? ch.val with
  | none => exact .inl ⟨(s.chan?_eq_none_iff _).1 h, State.onChannel_of_none h perform⟩
  | some c => exact .inr ⟨c, rfl, State.onChannel_of_some h perform⟩

/-- Everything the payload operand can do (60_exceptions.md R233). -/
theorem State.onPayload_cases (s : State) (payload : List Byte) (perform : State) :
    (s.cfg.nMax < payload.length ∧ s.onPayload payload perform = s.reject .errLength) ∨
      (payload.length ≤ s.cfg.nMax ∧ s.onPayload payload perform = perform) := by
  unfold State.onPayload
  split
  · exact .inl ⟨‹_›, rfl⟩
  · exact .inr ⟨by omega, rfl⟩

/-! The links of a channel. -/

/-- An adapter write records the request, sends the bytes if the adapter is connected, and changes nothing else
(41_channel.md R157). -/
theorem Channel.adapterWrite_eq (c : Channel) (bs : List Byte) :
    c.adapterWrite bs =
      { c with wrq := c.wrq ++ [bs], txq := if c.connected then c.txq ++ bs else c.txq } := by
  unfold Channel.adapterWrite
  split <;> rfl

/-- An arrival appends to the receive queue or changes nothing (41_channel.md R152). -/
theorem Channel.arrive_cases (cfg : Config) (c : Channel) (b : Byte) :
    (c.rxq.length < cfg.rxDepth ∧ c.arrive cfg b = { c with rxq := c.rxq ++ [b] }) ∨
      (cfg.rxDepth ≤ c.rxq.length ∧ c.arrive cfg b = c) := by
  unfold Channel.arrive
  split
  · exact .inl ⟨‹_›, rfl⟩
  · exact .inr ⟨by omega, rfl⟩

/-! The adapter. -/

@[simp] theorem Adapter.connected_wired : Adapter.wired.connected = true := rfl

@[simp] theorem Adapter.connected_wireless (cs : ConnState) (sel : Selector) :
    (Adapter.wireless cs sel).connected = (cs == .connected) := rfl

/-- A connected adapter sends no configuration lines (42_bringup.md R186). -/
theorem Adapter.resendTx_of_connected {a : Adapter} (h : a.connected = true) (cfg : Config) : a.resendTx cfg = [] := by
  cases a with
  | wired => rfl
  | wireless cs sel => simp_all [Adapter.resendTx]

/-- The matcher keeps the kind and the selector of an adapter. -/
theorem Adapter.matchByte_fields (a : Adapter) (b : Byte) :
    (a.matchByte b).kindField = a.kindField ∧ (a.matchByte b).selField = a.selField := by
  cases a <;> exact ⟨rfl, rfl⟩

/-! The drain of TryRead. -/

/-- One turn of the drain on a connected channel: the byte goes to the decoder (41_channel.md R154). -/
theorem drain_cons_connected (cap : Nat) (d : Decoder) {a : Adapter} (h : a.connected = true) (b : Byte) (q : List Byte) :
    drain cap d a (b :: q) =
      if (d.step cap b).2 = .complete then ⟨true, (d.step cap b).1, a, q⟩ else drain cap (d.step cap b).1 a q := by
  simp [drain, h]

/-- One turn of the drain on an unconnected channel: the byte goes to the matcher (41_channel.md R154). -/
theorem drain_cons_unconnected (cap : Nat) (d : Decoder) {a : Adapter} (h : a.connected = false) (b : Byte)
    (q : List Byte) : drain cap d a (b :: q) = drain cap d (a.matchByte b) q := by
  simp [drain, h]

/-- The drain of a connected channel stops behind the first bytes that complete a frame (41_channel.md R154). -/
theorem drain_of_completes {cap : Nat} {a : Adapter} (ha : a.connected = true) {used : List Byte} (rest : List Byte)
    {d : Decoder} (h : CompletesAtLast cap d used) :
    drain cap d a (used ++ rest) = ⟨true, (d.feed cap used).1, a, rest⟩ := by
  induction used generalizing d with
  | nil => obtain ⟨codes, hcodes, -⟩ := h; simp at hcodes
  | cons b bs ih =>
    obtain ⟨codes, hcodes, hfirst⟩ := h
    rw [List.cons_append, drain_cons_connected cap d ha]
    rw [Decoder.feed_cons] at hcodes ⊢
    cases codes with
    | nil =>
      obtain ⟨hb, hbs⟩ : (d.step cap b).2 = .complete ∧ ((d.step cap b).1.feed cap bs).2 = [] := by simpa using hcodes
      cases bs with
      | nil => simp [hb]
      | cons _ _ => simp at hbs
    | cons code codes =>
      obtain ⟨rfl, hbs⟩ : (d.step cap b).2 = code ∧ ((d.step cap b).1.feed cap bs).2 = codes ++ [.complete] := by
        simpa using hcodes
      rw [List.mem_cons, not_or] at hfirst
      rw [if_neg (Ne.symm hfirst.1)]
      exact ih ⟨codes, hbs, hfirst.2⟩

/-- The drain of a connected channel takes the whole queue where no frame completes (41_channel.md R154). -/
theorem drain_of_incomplete {cap : Nat} {a : Adapter} (ha : a.connected = true) {q : List Byte} {d : Decoder}
    (h : DecodeCode.complete ∉ (d.feed cap q).2) : drain cap d a q = ⟨false, (d.feed cap q).1, a, []⟩ := by
  induction q generalizing d with
  | nil => rfl
  | cons b bs ih =>
    rw [Decoder.feed_cons, List.mem_cons, not_or] at h
    rw [drain_cons_connected cap d ha, if_neg (Ne.symm h.1), ih h.2, Decoder.feed_cons]

/-- The drain of an unconnected wireless channel goes on as that of a connected one behind the bytes that connect
(41_channel.md R154, 42_bringup.md R190). -/
theorem drain_of_connects (cap : Nat) (d : Decoder) {cs : ConnState} (sel : Selector) {matched : List Byte}
    (rest : List Byte) (hcs : cs ≠ .connected) (h : ConnectsAtLast cs matched) :
    drain cap d (.wireless cs sel) (matched ++ rest) = drain cap d (.wireless .connected sel) rest := by
  induction matched generalizing cs with
  | nil => exact absurd h.1 hcs
  | cons b bs ih =>
    rw [List.cons_append, drain_cons_unconnected cap d (by simpa using hcs)]
    by_cases hb : cs.matchByte b = .connected
    · cases bs with
      | nil => simp [Adapter.matchByte, hb]
      | cons _ _ => exact absurd hb (by simpa using h.2 1 (by simp))
    · exact ih hb ⟨h.1, fun k hk => by simpa using h.2 (k + 1) (by simpa using hk)⟩

/-- A drain that completes a frame has consumed a byte (43_mux.md R214). -/
theorem drain_shortens (cap : Nat) (d : Decoder) (a : Adapter) (q : List Byte) :
    (drain cap d a q).rest.length ≤ q.length ∧
      ((drain cap d a q).ready = true → (drain cap d a q).rest.length < q.length) := by
  induction q generalizing d a with
  | nil => simp [drain]
  | cons b q ih =>
    cases h : a.connected with
    | false =>
      rw [drain_cons_unconnected cap d h]
      have := ih d (a.matchByte b)
      exact ⟨Nat.le_succ_of_le this.1, fun hr => Nat.lt_succ_of_lt (this.2 hr)⟩
    | true =>
      rw [drain_cons_connected cap d h]
      split
      · simp
      · have := ih (d.step cap b).1 a
        exact ⟨Nat.le_succ_of_le this.1, fun hr => Nat.lt_succ_of_lt (this.2 hr)⟩

/-- A TryRead that answers true leaves a shorter receive queue (43_mux.md R214). -/
theorem Channel.tryRead_shortens (cfg : Config) (c : Channel) (h : (c.tryRead cfg).ready = true) :
    (c.tryRead cfg).chan.rxq.length < c.rxq.length :=
  (drain_shortens (decCap cfg) c.dec.release c.adapter c.rxq).2 h

/-! The loop of a poll. -/

/-- One turn of the loop of a poll (43_mux.md R211). -/
theorem Channel.pollLoop_succ (cfg : Config) (fuel : Nat) (c : Channel) :
    Channel.pollLoop cfg (fuel + 1) c =
      if (c.tryRead cfg).ready then
        ⟨(Channel.pollLoop cfg fuel (c.tryRead cfg).chan).chan,
          (c.tryRead cfg).chan.dec.buf :: (Channel.pollLoop cfg fuel (c.tryRead cfg).chan).payloads⟩
      else ⟨(c.tryRead cfg).chan, []⟩ := rfl

/-- The loop of a poll ends by itself: any fuel above the queue's length gives what polling the channel gives
(43_mux.md R214). -/
theorem Channel.pollLoop_eq_poll (cfg : Config) (fuel : Nat) (c : Channel) (h : c.rxq.length < fuel) :
    Channel.pollLoop cfg fuel c = c.poll cfg := by
  have enough : ∀ n m (c : Channel), c.rxq.length < n → c.rxq.length < m →
      Channel.pollLoop cfg n c = Channel.pollLoop cfg m c := by
    intro n
    induction n with
    | zero => intro m c hn; omega
    | succ n ih =>
      intro m c hn hm
      obtain ⟨m, rfl⟩ : ∃ k, m = k + 1 := ⟨m - 1, by omega⟩
      rw [Channel.pollLoop_succ, Channel.pollLoop_succ]
      split
      · rename_i hr
        have := Channel.tryRead_shortens cfg c hr
        rw [ih m _ (by omega) (by omega)]
      · rfl
  exact enough _ _ c h (Nat.lt_succ_self _)

/-- Polling a channel, one TryRead at a time (43_mux.md R211): the equation that proofs about a poll use. -/
theorem Channel.poll_eq (cfg : Config) (c : Channel) :
    c.poll cfg =
      if (c.tryRead cfg).ready then
        ⟨((c.tryRead cfg).chan.poll cfg).chan,
          (c.tryRead cfg).chan.dec.buf :: ((c.tryRead cfg).chan.poll cfg).payloads⟩
      else ⟨(c.tryRead cfg).chan, []⟩ := by
  rw [Channel.poll, Channel.pollLoop_succ]
  split
  · rename_i hr
    rw [Channel.pollLoop_eq_poll cfg _ _ (Channel.tryRead_shortens cfg c hr)]
  · rfl

@[simp] theorem pollFrom_nil (cfg : Config) (k : Nat) : pollFrom cfg k [] = ⟨[], []⟩ := rfl

@[simp] theorem pollFrom_cons (cfg : Config) (k : Nat) (c : Channel) (cs : List Channel) :
    pollFrom cfg k (c :: cs) =
      ⟨(c.poll cfg).chan :: (pollFrom cfg (k + 1) cs).chans,
        (c.poll cfg).payloads.map (Delivery.mk k) ++ (pollFrom cfg (k + 1) cs).deliveries⟩ := rfl

/-- A poll polls each channel once, in place. -/
theorem pollFrom_chans (cfg : Config) (k : Nat) (cs : List Channel) :
    (pollFrom cfg k cs).chans = cs.map fun c => (c.poll cfg).chan := by
  induction cs generalizing k with
  | nil => rfl
  | cons c cs ih => simp [ih]

end Sys2Proof.Machine
end

