-- ==== Sys2Proof/Laws/PerInstr.lean ====
section
/-! SUPPORT. Facts about each command as syntax, one lemma per constructor of `Instr`. `EncodeSelects`: the word of a command
selects the command's own row of the match and mask table (30_encoding.md R76, R83). -/

namespace Sys2Proof.Laws

open Sys2Proof

/-- The word of the command selects the command's row. -/
def EncodeSelects.Statement (i : Instr) : Prop := selectOp (encode i).word = some i.op

theorem EncodeSelects.encode (payload : List Byte) : EncodeSelects.Statement (.encode payload) := by
  refine selectOp_of_selects (r := ⟨.encode, 0x00000001#32, 0x0000FFFF#32⟩) (by decide) ((OpRow.selects_iff _ _).2 ?_)
  simp [Sys2Proof.encode, Instr.op, Instr.chBits, Op.code, show immField 0x0000FFFF#32 = 0 by decide,
    show immField 0x00000001#32 = 0 by decide]
  decide

theorem EncodeSelects.decAppend (ch : ChannelIx) (b : Byte) : EncodeSelects.Statement (.decAppend ch b) := by
  refine selectOp_of_selects (r := ⟨.decAppend, 0x00000002#32, 0xFF00F0FF#32⟩) (by decide) ((OpRow.selects_iff _ _).2 ?_)
  simp [Sys2Proof.encode, Instr.op, Instr.chBits, Instr.immBits, Op.code, show chField 0xFF00F0FF#32 = 0 by decide,
    show chField 0x00000002#32 = 0 by decide, show immField 0xFF00F0FF#32 = 0xFF00#16 by decide,
    show immField 0x00000002#32 = 0 by decide]
  refine ⟨?_, by decide, by decide⟩
  revert b
  decide

theorem EncodeSelects.decRelease (ch : ChannelIx) : EncodeSelects.Statement (.decRelease ch) := by
  refine selectOp_of_selects (r := ⟨.decRelease, 0x00000003#32, 0xFFFFF0FF#32⟩) (by decide) ((OpRow.selects_iff _ _).2 ?_)
  revert ch
  decide

theorem EncodeSelects.tryRead (ch : ChannelIx) : EncodeSelects.Statement (.tryRead ch) := by
  refine selectOp_of_selects (r := ⟨.tryRead, 0x00000010#32, 0xFFFFF0FF#32⟩) (by decide) ((OpRow.selects_iff _ _).2 ?_)
  revert ch
  decide

theorem EncodeSelects.frameRead (ch : ChannelIx) : EncodeSelects.Statement (.frameRead ch) := by
  refine selectOp_of_selects (r := ⟨.frameRead, 0x00000011#32, 0xFFFFF0FF#32⟩) (by decide) ((OpRow.selects_iff _ _).2 ?_)
  revert ch
  decide

theorem EncodeSelects.writeRaw (ch : ChannelIx) (bs : List Byte) : EncodeSelects.Statement (.writeRaw ch bs) := by
  refine selectOp_of_selects (r := ⟨.writeRaw, 0x00000012#32, 0x0000F0FF#32⟩) (by decide) ((OpRow.selects_iff _ _).2 ?_)
  simp [Sys2Proof.encode, Instr.op, Instr.chBits, Op.code, show chField 0x0000F0FF#32 = 0 by decide,
    show chField 0x00000012#32 = 0 by decide, show immField 0x0000F0FF#32 = 0 by decide,
    show immField 0x00000012#32 = 0 by decide]
  decide

theorem EncodeSelects.isConnected (ch : ChannelIx) : EncodeSelects.Statement (.isConnected ch) := by
  refine selectOp_of_selects (r := ⟨.isConnected, 0x00000013#32, 0xFFFFF0FF#32⟩) (by decide) ((OpRow.selects_iff _ _).2 ?_)
  revert ch
  decide

theorem EncodeSelects.status (ch : ChannelIx) : EncodeSelects.Statement (.status ch) := by
  refine selectOp_of_selects (r := ⟨.status, 0x00000014#32, 0xFFFFF0FF#32⟩) (by decide) ((OpRow.selects_iff _ _).2 ?_)
  revert ch
  decide

theorem EncodeSelects.poll : EncodeSelects.Statement .poll := by
  unfold EncodeSelects.Statement
  decide

theorem EncodeSelects.write (bs : List Byte) : EncodeSelects.Statement (.write bs) := by
  refine selectOp_of_selects (r := ⟨.write, 0x00000021#32, 0x0000FFFF#32⟩) (by decide) ((OpRow.selects_iff _ _).2 ?_)
  simp [Sys2Proof.encode, Instr.op, Instr.chBits, Op.code, show immField 0x0000FFFF#32 = 0 by decide,
    show immField 0x00000021#32 = 0 by decide]
  decide

end Sys2Proof.Laws
end

