-- ==== Sys2Proof/Tests/Slice0.lean ====
section
/-! SUPPORT. Tests: words written out from 30_encoding.md, vectors of 95_test_vectors.md (named in each comment), and a
witness for the hypotheses of each statement. -/

namespace Sys2Proof.Tests

open Sys2Proof Sys2Proof.Machine

/-! The well-formedness check refuses a data phase of 65536 bytes and allows one of 65535 (30_encoding.md R70). -/

theorem test_encode_data_too_long : (Instr.encode (List.replicate 65536 0)).wellFormed = false := by
  simp only [Instr.wellFormed, List.length_replicate, maxDataLength]
  decide

theorem test_writeRaw_data_too_long : (Instr.writeRaw 0 (List.replicate 65536 0)).wellFormed = false := by
  simp only [Instr.wellFormed, List.length_replicate, maxDataLength]
  decide

theorem test_write_data_too_long : (Instr.write (List.replicate 65536 0)).wellFormed = false := by
  simp only [Instr.wellFormed, List.length_replicate, maxDataLength]
  decide

theorem test_write_longest_data : (Instr.write (List.replicate 65535 0)).WellFormed := by
  rw [Instr.WellFormed, Instr.wellFormed_write, List.length_replicate]
  decide

/-! Words written out field by field, IMM RSV CH OP, from 30_encoding.md R71 and R75. -/

theorem test_decode_encode :
    decode ⟨0b0000000000000010_0000_0000_00000001#32, [0x11, 0x00]⟩ = .ok (.encode [0x11, 0x00]) := by decide

theorem test_decode_decAppend :
    decode ⟨0b00000000_10100101_0000_1001_00000010#32, []⟩ = .ok (.decAppend 9 0xA5) := by decide

theorem test_decode_decRelease : decode ⟨0b0000000000000000_0000_0110_00000011#32, []⟩ = .ok (.decRelease 6) := by decide

theorem test_decode_tryRead : decode ⟨0b0000000000000000_0000_1000_00010000#32, []⟩ = .ok (.tryRead 8) := by decide

theorem test_decode_frameRead : decode ⟨0b0000000000000000_0000_0001_00010001#32, []⟩ = .ok (.frameRead 1) := by decide

theorem test_decode_writeRaw :
    decode ⟨0b0000000000000001_0000_0100_00010010#32, [0x00]⟩ = .ok (.writeRaw 4 [0x00]) := by decide

theorem test_decode_isConnected :
    decode ⟨0b0000000000000000_0000_1111_00010011#32, []⟩ = .ok (.isConnected 15) := by decide

theorem test_decode_status : decode ⟨0b0000000000000000_0000_0010_00010100#32, []⟩ = .ok (.status 2) := by decide

theorem test_decode_poll : decode ⟨0b0000000000000000_0000_0000_00100000#32, []⟩ = .ok .poll := by decide

theorem test_decode_write :
    decode ⟨0b0000000000000011_0000_0000_00100001#32, [1, 2, 3]⟩ = .ok (.write [1, 2, 3]) := by decide

/-- Vectors C1 to C8 and A7: words that match no row. -/
theorem test_decode_unmatched_words :
    ([0x00000000#32, 0x00000004#32, 0x000000FF#32, 0x00001010#32, 0x00010010#32, 0x00000120#32, 0x00010020#32,
      0x00000101#32, 0x01000002#32].map fun w => decode ⟨w, []⟩) = List.replicate 9 (.error .unmatchedWord) := by decide

/-- Vectors C9, C10, C11: data phases of the wrong length. -/
theorem test_decode_wrong_data :
    decode ⟨0x00000012#32, [0xAA]⟩ = .error .wrongDataLength ∧ decode ⟨0x00020012#32, [0xAA]⟩ = .error .wrongDataLength ∧
      decode ⟨0x00000010#32, [0x01]⟩ = .error .wrongDataLength := by decide

/-- The example words of 30_encoding.md R83, encoded. -/
theorem test_encode_words :
    (encode (.tryRead 1)).word = 0x00000110#32 ∧ (encode (.decAppend 0 0x4F)).word = 0x004F0002#32 ∧
      (encode (.encode [0x10, 0x00, 0x20])).word = 0x00030001#32 ∧
      (encode (.writeRaw 1 [0xAA, 0xBB])).word = 0x00020112#32 := by decide

/-- The word is sent least significant byte first, the data phase after it (20_memory.md R53). -/
theorem test_serialised_bytes :
    (encode (.writeRaw 1 [0xAA, 0xBB])).bytes = [0x12, 0x01, 0x02, 0x00, 0xAA, 0xBB] := by decide

/-- The numbering of a table word: data bits above the given bits are zero. -/
theorem test_table_word : decodeTableWord 32 0x00020112 = some (.writeRaw 1 [0, 0]) := by decide

/-- The assembly syntax of 30_encoding.md R83. -/
theorem test_assembly_text :
    assemblyText (.decAppend 0 0x4F) = "DEC_APPEND 0, 0x4F" ∧ assemblyText (.encode [0x10, 0x00, 0x20]) = "ENCODE [10 00 20]" ∧
      assemblyText .poll = "POLL" := by decide

/-! Small states. -/

/-- A wired channel with this decoder and receive queue. -/
def wiredChan (d : Decoder) (rxq : List Byte) : Channel := ⟨d, .wired, rxq, [], []⟩

/-- A wireless channel with this Connection State, selector 4 and receive queue. -/
def wirelessChan (cs : ConnState) (rxq : List Byte) : Channel := ⟨Decoder.reset, .wireless cs 4, rxq, configLines referenceConfig 4, []⟩

/-- A state with these channels and pending inputs, the parameters of the reference configuration. -/
def withChans (chans : List Channel) (inputs : List Input) : State := ⟨referenceConfig, chans, [], [], inputs⟩

/-- A decoder inside a run, after DEC_APPEND 03, 11 (vector D1). -/
def midRun : Decoder := ⟨.run, [0x11], 1, false, false, false⟩

/-- A decoder between runs, after DEC_APPEND 03, 11, 22 (vector D1). -/
def betweenRuns : Decoder := ⟨.marker, [0x11, 0x22], 0, false, true, false⟩

/-- A field of the next state. -/
def nextField (f : State → α) (o : Host.Outcome State Fault Refusal) : Option α :=
  match o with
  | .next t => some (f t)
  | .fault _ => none
  | .refused _ => none

/-- The responses in the next state. -/
def responses : Host.Outcome State Fault Refusal → Option (List Response) := nextField State.rsp

/-! One step of each command. -/

/-- Vector X1. -/
theorem test_encode_frame :
    responses (exec (.encode [0x11, 0x22, 0x00, 0x33]) (withChans [] [])) =
      some [⟨.ok, 6, 0, [0x03, 0x11, 0x22, 0x02, 0x33, 0x00]⟩] := by decide

/-- R108 with N_MAX = 1: two bytes are too long. -/
theorem test_encode_too_long :
    responses (exec (.encode [0x11, 0x22]) ⟨{ referenceConfig with nMax := 1 }, [], [], [], []⟩) =
      some [⟨.errLength, 0, 0, []⟩] := by decide

/-- Vectors D1 (its fourth byte) and P6 step 4: the implicit zero is appended when the next marker arrives. -/
theorem test_decAppend_implicit_zero :
    responses (exec (.decAppend 0 0x02) (withChans [wiredChan betweenRuns []] [])) = some [⟨.ok, 0, 3, []⟩] := by decide

/-- Vector D6: with DEC_CAP = 3 the fourth data byte overflows and the decoder hunts. -/
theorem test_decAppend_overflow :
    nextField (fun t => (t.rsp, t.chans.map (·.dec)))
        (exec (.decAppend 0 0x44)
          ⟨{ referenceConfig with nMax := 3 }, [wiredChan ⟨.run, [0x11, 0x22, 0x33], 1, false, false, false⟩ []], [], [], []⟩) =
      some ([⟨.ok, 2, 0, []⟩], [⟨.hunt, [], 0, false, false, false⟩]) := by decide

/-- Vector A3: the first release answers 1. -/
theorem test_decRelease_held :
    nextField (fun t => (t.rsp, t.chans.map (·.dec)))
        (exec (.decRelease 0) (withChans [wiredChan (Decoder.holding []) []] [])) =
      some ([⟨.ok, 1, 0, []⟩], [Decoder.reset]) := by decide

/-- R120: a partial frame survives a release. -/
theorem test_decRelease_partial :
    nextField (fun t => (t.rsp, t.chans.map (·.dec))) (exec (.decRelease 0) (withChans [wiredChan midRun []] [])) =
      some ([⟨.ok, 0, 0, []⟩], [midRun]) := by decide

/-- Vector T1. -/
theorem test_tryRead_first_frame :
    nextField (fun t => (t.rsp, t.chans.map fun c => (c.dec, c.rxq)))
        (exec (.tryRead 0) (withChans [wiredChan Decoder.reset [0x02, 0x41, 0x00, 0x03, 0x42, 0x43, 0x00]] [])) =
      some ([⟨.ok, 1, 1, []⟩], [(Decoder.holding [0x41], [0x03, 0x42, 0x43, 0x00])]) := by decide

/-- R118 and R154: a partial frame survives a read that completes nothing. -/
theorem test_tryRead_partial :
    nextField (fun t => (t.rsp, t.chans.map fun c => (c.dec, c.rxq)))
        (exec (.tryRead 0) (withChans [wiredChan midRun [0x22]] [])) =
      some ([⟨.ok, 0, 0, []⟩], [(betweenRuns, [])]) := by decide

/-- Vector T7: the tolerant handshake and a frame in one call; the configuration lines are sent once more. -/
theorem test_tryRead_connects :
    nextField (fun t => (t.rsp, t.chans.map fun c => (c.dec, c.adapter, c.txq.length)))
        (exec (.tryRead 0)
          (withChans [wirelessChan .initial [0x0D, 0x0A, 0x43, 0x4F, 0x4E, 0x0D, 0x0D, 0x0A, 0x02, 0x77, 0x00]] [])) =
      some ([⟨.ok, 1, 1, []⟩], [(Decoder.holding [0x77], .wireless .connected 4, 40)]) := by decide

/-- Vector T2. -/
theorem test_frameRead_view :
    responses (exec (.frameRead 0) (withChans [wiredChan (Decoder.holding [0x41]) []] [])) =
      some [⟨.ok, 1, 0, [0x41]⟩] := by decide

/-- Vector C19. -/
theorem test_frameRead_none :
    responses (exec (.frameRead 0) (withChans [wiredChan Decoder.reset []] [])) = some [⟨.errNoFrame, 0, 0, []⟩] := by decide

/-- Vector T9: an unconnected wireless adapter records the request and sends nothing. -/
theorem test_writeRaw_dropped :
    nextField (fun t => t.chans.map fun c => (c.wrq, c.txq.length))
        (exec (.writeRaw 0 [0xAA, 0xBB]) (withChans [wirelessChan .initial []] [])) = some [([[0xAA, 0xBB]], 20)] := by decide

/-- Vector T10: an empty request is an entry of WRQ. -/
theorem test_writeRaw_empty :
    nextField (fun t => t.chans.map fun c => (c.wrq, c.txq))
        (exec (.writeRaw 0 []) (withChans [wiredChan Decoder.reset []] [])) = some [([[]], [])] := by decide

/-- Vector T8. -/
theorem test_isConnected :
    responses (exec (.isConnected 0) State.reset) = some [⟨.ok, 1, 0, []⟩] ∧
      responses (exec (.isConnected 1) State.reset) = some [⟨.ok, 0, 0, []⟩] := by decide

/-- Vectors S5 and S6. -/
theorem test_status_decoder :
    responses (exec (.status 0) (withChans [wiredChan midRun []] [])) = some [⟨.ok, 0x00010202, 1, []⟩] ∧
      responses (exec (.status 0) (withChans [wiredChan betweenRuns []] [])) = some [⟨.ok, 0x00000902, 2, []⟩] := by decide

/-- Vectors S9 and S10. -/
theorem test_status_wireless :
    responses (exec (.status 0) (withChans [wirelessChan .matchC []] [])) = some [⟨.ok, 0x0000008D, 0, []⟩] ∧
      responses (exec (.status 0) (withChans [wirelessChan .connected []] [])) = some [⟨.ok, 0x0000009F, 0, []⟩] := by decide

/-- Vector Q2. -/
theorem test_poll_priority :
    nextField (fun t => (t.rsp, t.dlv))
        (exec .poll (withChans [wiredChan Decoder.reset [0x02, 0xF1, 0x00, 0x02, 0xF2, 0x00],
          wiredChan Decoder.reset [0x02, 0xF3, 0x00]] [])) =
      some ([⟨.ok, 3, 0, []⟩], [⟨0, [0xF1]⟩, ⟨0, [0xF2]⟩, ⟨1, [0xF3]⟩]) := by decide

/-- Vector Q5: a held frame is released, not delivered. -/
theorem test_poll_releases :
    nextField (fun t => (t.rsp, t.dlv, t.chans.map (·.dec)))
        (exec .poll (withChans [wiredChan (Decoder.holding []) []] [])) = some ([⟨.ok, 0, 0, []⟩], [], [Decoder.reset]) := by decide

/-- Vector Q3. -/
theorem test_write_broadcast :
    nextField (fun t => t.chans.map fun c => (c.wrq, c.txq.length)) (exec (.write [0x02, 0x10, 0x02, 0x20, 0x00]) State.reset) =
      some [([[0x02, 0x10, 0x02, 0x20, 0x00]], 5), ([[0x02, 0x10, 0x02, 0x20, 0x00]], 20)] := by decide

/-- Vectors B1 and B3: unsupported rates fall back to the 9600 entry; S3 and S4 after reset. -/
theorem test_resolve_fallback :
    ([1200, 9600, 0, 14400, 1000000, 0xFFFFFFFF, 115201, 921600].map resolve) = [0, 0, 0, 0, 0, 0, 0, 7] := by decide

/-- The configuration lines CFG4 of 95_test_vectors.md, section 3.5. -/
theorem test_config_lines :
    configLines referenceConfig 4 =
      [0x41, 0x54, 0x2B, 0x42, 0x41, 0x55, 0x44, 0x34, 0x0D, 0x0A, 0x41, 0x54, 0x2B, 0x4D, 0x4F, 0x44, 0x45, 0x31, 0x0D, 0x0A] := by decide

/-- Vectors M3 and M5: the matcher does not compare a mismatching byte again. -/
theorem test_matcher_mismatch :
    ([0x0D, 0x0A, 0x43, 0x58, 0x4E, 0x0D, 0x0A].foldl ConnState.matchByte .initial) = .matchLf1 ∧
      ([0x0D, 0x0D, 0x0A, 0x43, 0x4F, 0x4E, 0x0D, 0x0A].foldl ConnState.matchByte .initial) = .matchLf1 := by decide

/-- Vectors E6 and E8. -/
theorem test_encode_zeros :
    encodeFrame [0x11, 0x00, 0x00, 0x00] = [0x02, 0x11, 0x01, 0x01, 0x01, 0x00] ∧
      encodeFrame [0x00, 0x11] = [0x01, 0x02, 0x11, 0x00] := by decide

set_option maxRecDepth 4000 in
/-- Vectors E10 and E11, as lengths and markers: a payload that ends on a full run gets no further marker. -/
theorem test_encode_full_run :
    (encodeFrame (List.replicate 254 0x5A)).length = 256 ∧ (encodeFrame (List.replicate 254 0x5A)).head? = some 0xFF ∧
      (encodeFrame (List.replicate 255 0x5A)).drop 255 = [0x02, 0x5A, 0x00] := by decide

/-- Program P1: SEND [10 00 20] in the reference configuration. -/
theorem test_send :
    nextField (fun t => t.chans.map (·.wrq)) (runSend [0x10, 0x00, 0x20] State.reset) =
      some [[[0x02, 0x10, 0x02, 0x20, 0x00]], [[0x02, 0x10, 0x02, 0x20, 0x00]]] := by decide

/-- The values of 30_encoding.md R80. -/
theorem test_status_codes :
    ([Status.ok, .errIllegal, .errChannel, .errLength, .errBusy, .errNoFrame].map Status.code) = [0, 1, 2, 3, 4, 5] := by decide

/-! Steps. -/

/-- R152 with RX_DEPTH = 1: the second byte is lost. -/
theorem test_arrival_lost :
    nextField (fun t => t.chans.map (·.rxq))
        (step ⟨{ referenceConfig with rxDepth := 1 }, [wiredChan Decoder.reset [0x41]], [], [], [.rxArrive 0 0x42]⟩) =
      some [[0x41]] := by decide

/-- R260: a reset starts a new launch; the channel is constructed again. -/
theorem test_reset_again :
    nextField (fun t => t.chans.map fun c => (c.rxq, c.txq.length))
        (step (withChans [wiredChan midRun [0x01], wirelessChan .connected [0x02]] [.reset])) =
      some [([], 0), ([], 20)] := by decide

/-- Vector C1 on the port: an all-zero word is answered ERR_ILLEGAL. -/
theorem test_illegal_word :
    responses (step (withChans [] [.command ⟨0, []⟩])) = some [⟨.errIllegal, 0, 0, []⟩] := by decide

/-- The first instruction after reset, given as a table word, runs (log 3). -/
theorem test_first_instruction : responses (step (State.reset.withFetchWord 32 0x114)) = some [⟨.ok, 0x81, 0, []⟩] := by decide

/-! Witnesses: for each statement with hypotheses, a state and operands that meet them together, at the ends of the ranges
where a clause has a range. -/

theorem holding_invariant (payload : List Byte) : (Decoder.holding payload).Invariant := by
  constructor <;> simp [Decoder.holding, Decoder.reset]

theorem reset_decoder_invariant : Decoder.reset.Invariant := by constructor <;> simp [Decoder.reset]

theorem midRun_invariant : midRun.Invariant := by constructor <;> simp [midRun]

theorem witness_DecodeOfEncode :
    (Instr.encode []).WellFormed ∧ (Instr.encode (List.replicate 65535 0)).WellFormed ∧ Instr.poll.WellFormed := by
  refine ⟨by decide, ?_, by decide⟩
  rw [Instr.WellFormed, Instr.wellFormed_encode, List.length_replicate]
  decide

theorem witness_EncodeOfDecode : decode ⟨0x00010001#32, [7]⟩ = .ok (.encode [7]) := by decide

theorem witness_OpcodeRowsDisjoint :
    OpRow.mk .poll 0x00000020#32 0xFFFFFFFF#32 ∈ opTable ∧
      (OpRow.mk .poll 0x00000020#32 0xFFFFFFFF#32).selects 0x00000020#32 = true := by decide

theorem witness_DecodedOperands :
    decode ⟨0x00FF0F02#32, []⟩ = .ok (.decAppend 15 0xFF) ∧ namedChannel (.decAppend 15 0xFF) = some 15 ∧
      decode ⟨0x00010021#32, [7]⟩ = .ok (.write [7]) ∧ (Instr.write [7]).op = .write := by decide

theorem witness_SerialisedCommandReadsBack : (Instr.writeRaw 15 []).WellFormed := by decide

theorem witness_StepRunsDecodedCommand :
    (withChans [] [.command ⟨0x20#32, []⟩, .reset]).inputs = .command ⟨0x20#32, []⟩ :: [.reset] ∧
      decode ⟨0x20#32, []⟩ = .ok .poll := by decide

theorem witness_IllegalCommandAnswered :
    ¬ LegalCommand ⟨0#32, []⟩ ∧ ¬ LegalCommand ⟨0x12#32, [1]⟩ ∧ ¬ LegalCommand ⟨0x00001F10#32, []⟩ :=
  ⟨by decide, by decide, by decide⟩

theorem witness_ArrivalJoinsQueueOrIsLost :
    ∃ s full : State, s.inputs = [.rxArrive 0 7] ∧ s.chan? 0 = some (wiredChan Decoder.reset []) ∧
      (wiredChan Decoder.reset []).rxq.length < s.cfg.rxDepth ∧
      full.inputs = [.rxArrive 0 7] ∧ full.chan? 0 = some (wiredChan Decoder.reset [9]) ∧
      full.cfg.rxDepth ≤ (wiredChan Decoder.reset [9]).rxq.length :=
  ⟨withChans [wiredChan Decoder.reset []] [.rxArrive 0 7],
    ⟨{ referenceConfig with rxDepth := 1 }, [wiredChan Decoder.reset [9]], [], [], [.rxArrive 0 7]⟩, by decide⟩

theorem witness_IdleHoldsState : (withChans [wiredChan midRun [1]] []).inputs = [] := rfl

theorem witness_ResetStartsNewLaunch : (withChans [wiredChan midRun [1]] [.reset, .reset]).inputs = .reset :: [.reset] := rfl

theorem witness_ResetValues :
    referenceConfig.channels[0]? = some .wired ∧ referenceConfig.channels[1]? = some (.wireless 115200) := by decide

theorem witness_ResetMeetsInvariants : referenceConfig.Valid := by
  constructor <;> decide

/-- A state that is not that of reset and meets the machine's invariants, with a POLL to do. -/
def busyState : State :=
  ⟨referenceConfig, [wiredChan (Decoder.holding [0x41]) [0x02, 0x42, 0x00], wirelessChan .matchC [0x4F]], [⟨0, [0x40]⟩],
    [Response.error .errBusy], [.command ⟨0x20#32, []⟩]⟩

theorem busyState_channels :
    List.Forall₂ (Channel.Invariant referenceConfig) [.wired, .wireless 115200]
      [wiredChan (Decoder.holding [0x41]) [0x02, 0x42, 0x00], wirelessChan .matchC [0x4F]] := by
  refine .cons ⟨holding_invariant _, by decide, by decide, trivial⟩
    (.cons ⟨reset_decoder_invariant, by decide, by decide, ?_⟩ .nil)
  show (4 : Selector) = resolve 115200
  decide

theorem witness_StepKeepsInvariant : busyState.Invariant ∧ ∃ t, step busyState = .next t := by
  refine ⟨⟨witness_ResetMeetsInvariants, busyState_channels, by decide, ?_⟩, ⟨_, rfl⟩⟩
  intro r hr
  obtain rfl : r = Response.error .errBusy := by simpa [busyState] using hr
  exact fun _ => rfl

theorem witness_StepKeepsSentRight : busyState.SentRight ∧ ∃ t, step busyState = .next t := by
  refine ⟨?_, ⟨_, rfl⟩⟩
  intro c hc
  obtain rfl | rfl : c = wiredChan (Decoder.holding [0x41]) [0x02, 0x42, 0x00] ∨ c = wirelessChan .matchC [0x4F] := by
    simpa [busyState] using hc
  · rfl
  · intro _
    exact ⟨0, by simp [wirelessChan, busyState]⟩

theorem witness_DecoderInvariantsPreserved :
    (∀ c ∈ busyState.chans, c.dec.Invariant) ∧ ∃ t, step busyState = .next t := by
  refine ⟨?_, ⟨_, rfl⟩⟩
  intro c hc
  obtain rfl | rfl : c = wiredChan (Decoder.holding [0x41]) [0x02, 0x42, 0x00] ∨ c = wirelessChan .matchC [0x4F] := by
    simpa [busyState] using hc
  · exact holding_invariant _
  · exact reset_decoder_invariant

theorem witness_TracesAppendOnly :
    ¬ busyState.resetNext ∧ (∃ t, step busyState = .next t) ∧ (∃ c, busyState.chan? 1 = some c) := by
  refine ⟨?_, ⟨_, rfl⟩, ⟨_, rfl⟩⟩
  unfold State.resetNext
  decide

theorem witness_ParametersAndSelectorsFixed :
    (∃ t, step busyState = .next t) ∧ ¬ busyState.resetNext ∧ (∃ c, busyState.chan? 1 = some c) :=
  ⟨⟨_, rfl⟩, witness_TracesAppendOnly.1, ⟨_, rfl⟩⟩

theorem witness_ConnectedIsAbsorbing :
    ∃ (s t : State) (c : Channel), ¬ s.resetNext ∧ step s = .next t ∧ s.chan? 0 = some c ∧
      c.adapter = .wireless .connected 4 :=
  ⟨withChans [wirelessChan .connected [0x0D]] [.command ⟨0x20#32, []⟩], _, wirelessChan .connected [0x0D],
    by unfold State.resetNext; decide, rfl, rfl, rfl⟩

theorem witness_ViewStaysUntilReleased :
    ∃ (s t : State) (c : Channel), s.chan? 0 = some c ∧ c.dec.ready = true ∧ ¬ s.resetNext ∧
      (∀ cmd i, s.nextInput = some (.command cmd) → decode cmd = .ok i → endsView 0 i = false) ∧ step s = .next t := by
  refine ⟨withChans [wiredChan (Decoder.holding [1]) []] [.command ⟨0x00550002#32, []⟩], _,
    wiredChan (Decoder.holding [1]) [], rfl, rfl, by unfold State.resetNext; decide, ?_, rfl⟩
  intro cmd i h hd
  obtain rfl : cmd = ⟨0x00550002#32, []⟩ := by simpa [State.nextInput, withChans, eq_comm] using h
  have : decode ⟨0x00550002#32, []⟩ = .ok (.decAppend 0 0x55) := by decide
  rw [this] at hd
  obtain rfl : Instr.decAppend 0 0x55 = i := by simpa using hd
  rfl

theorem witness_HuntStep : (⟨.hunt, [], 0, false, false, false⟩ : Decoder).phase = .hunt ∧ (7 : Byte) ≠ 0x00#8 := by decide

theorem witness_IdleStep : Decoder.reset.phase = .idle ∧ 2 ≤ (2 : Byte).toNat ∧ 2 ≤ (255 : Byte).toNat := by decide

/-- Each clause of MarkerStep: an owed zero at capacity 2 and below it, none owed, and both kinds of next marker. -/
theorem witness_MarkerStep :
    betweenRuns.phase = .marker ∧ (2 : Byte) ≠ 0x00#8 ∧ (2 : Byte) ≠ 0x01#8 ∧ (1 : Byte) ≠ 0x00#8 ∧ (1 : Byte) = 0x01#8 ∧
      betweenRuns.zp = true ∧ betweenRuns.buf.length = 2 ∧ betweenRuns.buf.length ≠ 3 ∧
      (⟨.marker, [0x11], 0, true, false, false⟩ : Decoder).phase = .marker ∧
      (⟨.marker, [0x11], 0, true, false, false⟩ : Decoder).zp = false := by decide

/-- Each clause of RunStep: at capacity 1, and below it with one and with two bytes left. -/
theorem witness_RunStep :
    midRun.phase = .run ∧ 1 ≤ midRun.rem ∧ (7 : Byte) ≠ 0x00#8 ∧ midRun.buf.length = 1 ∧ midRun.buf.length ≠ 2 ∧
      midRun.rem = 1 ∧ (⟨.run, [], 2, false, false, false⟩ : Decoder).phase = .run ∧
      2 ≤ (⟨.run, [], 2, false, false, false⟩ : Decoder).rem := by decide

theorem witness_FrameRoundTrip :
    ([0x11, 0x00] : List Byte).length ≤ 2 ∧ Decoder.reset.Invariant ∧ Decoder.reset.phase = .idle ∧
      Decoder.reset.ready = false := ⟨by decide, reset_decoder_invariant, rfl, rfl⟩

theorem witness_WellFormedFrameDecodes :
    IsFrameOf [0x02, 0x11, 0x01, 0x00] [0x11, 0x00] ∧ ([0x11, 0x00] : List Byte).length ≤ 2 ∧ Decoder.reset.Invariant ∧
      Decoder.reset.phase = .idle ∧ Decoder.reset.ready = false :=
  ⟨⟨[[0x11], []], by decide, by decide, by decide, by decide⟩, by decide, reset_decoder_invariant, rfl, rfl⟩

theorem witness_EncodeIsWellFormedFrame :
    (List.replicate 254 0x5A#8).length = 254 ∧ ∀ b ∈ List.replicate 254 0x5A#8, b ≠ 0x00#8 :=
  ⟨List.length_replicate, fun _ hb => (List.eq_of_mem_replicate hb) ▸ by decide⟩

theorem witness_FrameEndsWithOneDelimiter : IsFrameOf [0x01, 0x00] [] :=
  ⟨[[]], by decide, by decide, by decide, by decide⟩

theorem witness_FrameLength :
    (∀ b ∈ ([0x11, 0x22] : List Byte), b ≠ 0x00#8) ∧ ([0x11, 0x22] : List Byte).length ≤ referenceConfig.nMax := by decide

theorem witness_OversizeFrameDiscarded :
    2 < ([0x11, 0x00, 0x22] : List Byte).length ∧ Decoder.reset.Invariant ∧ Decoder.reset.phase = .idle ∧
      Decoder.reset.ready = false := ⟨by decide, reset_decoder_invariant, rfl, rfl⟩

theorem witness_ResolveRate :
    (1200#32).toNat ∉ [9600, 19200, 38400, 57600, 115200, 230400, 460800, 921600] := by decide

/-- Each clause of MatcherStep: a match in states 0 and 6, a mismatch in states 0 and 5, a mismatch in MATCH_CR2. -/
theorem witness_MatcherStep :
    ConnState.initial ≠ .connected ∧ ConnState.matchCr2 ≠ .connected ∧ ConnState.matchN ≠ .matchCr2 ∧
      [0x0D#8, 0x0A#8, 0x43#8, 0x4F#8, 0x4E#8, 0x0D#8, 0x0A#8][ConnState.initial.ordinal]? = some 0x0D#8 ∧
      [0x0D#8, 0x0A#8, 0x43#8, 0x4F#8, 0x4E#8, 0x0D#8, 0x0A#8][ConnState.matchCr2.ordinal]? = some 0x0A#8 ∧
      [0x0D#8, 0x0A#8, 0x43#8, 0x4F#8, 0x4E#8, 0x0D#8, 0x0A#8][ConnState.initial.ordinal]? ≠ some 0x0A#8 ∧
      [0x0D#8, 0x0A#8, 0x43#8, 0x4F#8, 0x4E#8, 0x0D#8, 0x0A#8][ConnState.matchN.ordinal]? ≠ some 0x0A#8 ∧
      (0x0D#8 : Byte) ≠ 0x0A#8 := by decide

/-- Each clause of EncodeResult: N_MAX = 2 bytes, and one more. -/
theorem witness_EncodeResult :
    ∃ s : State, ([1, 2] : List Byte).length ≤ s.cfg.nMax ∧ s.cfg.nMax < ([1, 2, 3] : List Byte).length :=
  ⟨⟨{ referenceConfig with nMax := 2 }, [], [], [], []⟩, by decide⟩

/-- Channels with and without a held frame, for DecAppendResult, DecReleaseResult, TryReadResult, FrameReadResult and
StatusResult. -/
theorem witness_channel_results :
    ∃ s : State, s.chan? (0 : ChannelIx).val = some (wiredChan (Decoder.holding [1]) []) ∧
      (wiredChan (Decoder.holding [1]) []).dec.ready = true ∧
      s.chan? (1 : ChannelIx).val = some (wiredChan midRun []) ∧ (wiredChan midRun []).dec.ready = false ∧
      (wiredChan midRun []).dec.rem ≤ 254 :=
  ⟨withChans [wiredChan (Decoder.holding [1]) [], wiredChan midRun []] [], by decide⟩

/-- Channels of each kind and connectivity, for WriteRawResult, IsConnectedResult, StatusResult and WriteResult. -/
theorem witness_adapter_results :
    ∃ s : State, s.chan? (0 : ChannelIx).val = some (wiredChan midRun []) ∧ (wiredChan midRun []).adapter = .wired ∧
      s.chan? (1 : ChannelIx).val = some (wirelessChan .connected []) ∧
      (wirelessChan .connected []).adapter = .wireless .connected 4 ∧
      s.chan? (2 : ChannelIx).val = some (wirelessChan .matchCr2 []) ∧
      (wirelessChan .matchCr2 []).adapter = .wireless .matchCr2 4 ∧ ConnState.matchCr2 ≠ .connected :=
  ⟨withChans [wiredChan midRun [], wirelessChan .connected [], wirelessChan .matchCr2 []] [], by decide⟩

/-- The four phases, for StatusResult. -/
theorem witness_StatusResult :
    Decoder.reset.phase = .idle ∧ betweenRuns.phase = .marker ∧ midRun.phase = .run ∧ (midRun.discard .hunt).phase = .hunt := by
  decide

theorem witness_PollResult :
    (withChans [wiredChan Decoder.reset [0x02, 0xF1, 0x00]] []).chan? 0 = some (wiredChan Decoder.reset [0x02, 0xF1, 0x00]) :=
  rfl

/-- Both answers of TryReadConsumes, and both kinds of connectivity. -/
theorem witness_TryReadConsumes :
    ((wiredChan Decoder.reset [0x01, 0x00]).tryRead referenceConfig).ready = true ∧
      ((wiredChan Decoder.reset [0x01]).tryRead referenceConfig).ready = false ∧
      (wiredChan Decoder.reset [0x01]).connected = true ∧
      (wirelessChan .matchCr2 [0x0A, 0x01, 0x00]).adapter = .wireless .matchCr2 4 ∧ ConnState.matchCr2 ≠ .connected ∧
      ((wirelessChan .matchCr2 [0x0A, 0x01, 0x00]).tryRead referenceConfig).ready = true := by decide

/-- The bytes 0x22 and 0x00 complete the partial frame that `midRun` holds; the byte 0x22 alone does not. -/
theorem witness_partial_frame :
    CompletesAtLast 600 midRun.release [0x22, 0x00] ∧ DecodeCode.complete ∉ (midRun.release.feed 600 [0x22]).2 :=
  ⟨⟨[.pending], by decide⟩, by decide⟩

/-- Each clause of TryReadDecodesFrame: a partial frame completed and not completed, a frame at a frame boundary. -/
theorem witness_TryReadDecodesFrame :
    ∃ (s : State) (c0 c1 c2 : Channel), s.chan? (0 : ChannelIx).val = some c0 ∧ c0.connected = true ∧
      c0.rxq = [0x22, 0x00] ++ [0x03] ∧ CompletesAtLast (decCap s.cfg) c0.dec.release [0x22, 0x00] ∧
      s.chan? (1 : ChannelIx).val = some c1 ∧ c1.connected = true ∧
      DecodeCode.complete ∉ (c1.dec.release.feed (decCap s.cfg) c1.rxq).2 ∧
      s.chan? (2 : ChannelIx).val = some c2 ∧ c2.connected = true ∧ c2.dec.Invariant ∧
      c2.dec.phase = .idle ∧ ([0x41] : List Byte).length ≤ s.cfg.nMax ∧ c2.rxq = encodeFrame [0x41] ++ [0x03] :=
  ⟨withChans [wiredChan midRun [0x22, 0x00, 0x03], wiredChan midRun [0x22],
      wiredChan (Decoder.holding [1]) [0x02, 0x41, 0x00, 0x03]] [],
    wiredChan midRun [0x22, 0x00, 0x03], wiredChan midRun [0x22], wiredChan (Decoder.holding [1]) [0x02, 0x41, 0x00, 0x03],
    rfl, rfl, rfl, witness_partial_frame.1, rfl, rfl, witness_partial_frame.2, rfl, rfl, holding_invariant _, rfl,
    by decide, by decide⟩

theorem witness_UnconnectedReadFeedsMatcher :
    (wirelessChan .matchN [0x0D, 0x41]).adapter = .wireless .matchN 4 ∧
      (wirelessChan .matchN [0x0D, 0x41]).rxq.foldl ConnState.matchByte .matchN ≠ .connected := by decide

/-- Bytes that connect with their last byte only, from MATCH_CR2, whose mismatches do not reset, and from INITIAL, after a
mismatch. -/
theorem witness_connecting_bytes :
    ConnectsAtLast .matchCr2 [0x0D, 0x41, 0x0A] ∧
      ConnectsAtLast .initial [0x0D, 0x0D, 0x0D, 0x0A, 0x43, 0x4F, 0x4E, 0x0D, 0x0A] :=
  ⟨⟨by decide, by decide⟩, ⟨by decide, by decide⟩⟩

theorem witness_HandshakeThenFrame :
    ∃ (s : State) (c : Channel), s.chan? (0 : ChannelIx).val = some c ∧ c.adapter = .wireless .matchCr2 4 ∧
      ConnState.matchCr2 ≠ .connected ∧ ConnectsAtLast .matchCr2 [0x0D, 0x41, 0x0A] ∧
      c.dec.Invariant ∧ c.dec.phase = .idle ∧ ([0x77] : List Byte).length ≤ s.cfg.nMax ∧
      c.rxq = [0x0D, 0x41, 0x0A] ++ encodeFrame [0x77] ++ [] :=
  ⟨withChans [wirelessChan .matchCr2 [0x0D, 0x41, 0x0A, 0x02, 0x77, 0x00]] [],
    wirelessChan .matchCr2 [0x0D, 0x41, 0x0A, 0x02, 0x77, 0x00],
    rfl, rfl, by decide, witness_connecting_bytes.1, reset_decoder_invariant, rfl, by decide, by decide⟩

/-- Each clause of PollOfOneChannel: a partial frame completed and not completed, bytes that connect and bytes that do not. -/
theorem witness_PollOfOneChannel :
    (wiredChan midRun [0x22, 0x00, 0x03]).connected = true ∧ CompletesAtLast 600 midRun.release [0x22, 0x00] ∧
      DecodeCode.complete ∉ (midRun.release.feed 600 [0x22]).2 ∧
      (wirelessChan .matchCr2 [0x0D, 0x41, 0x0A]).adapter = .wireless .matchCr2 4 ∧ ConnState.matchCr2 ≠ .connected ∧
      ConnectsAtLast .matchCr2 [0x0D, 0x41, 0x0A] ∧
      [0x0D, 0x41].foldl ConnState.matchByte .matchCr2 ≠ .connected :=
  ⟨rfl, witness_partial_frame.1, witness_partial_frame.2, rfl, by decide, witness_connecting_bytes.1, by decide⟩

theorem witness_PollEmptiesChannels : ∃ t, exec .poll busyState = .next t ∧ t.chans ≠ [] := ⟨_, rfl, by decide⟩

/-- One channel with two frames, a stray delimiter before the second, and one channel with none. -/
theorem witness_PollDeliversQueuedFrames :
    List.Forall₂ (fun (c : Channel) (q : List (Nat × List Byte)) =>
      c.connected = true ∧ c.dec.Invariant ∧ c.dec.phase = .idle ∧ (∀ f ∈ q, f.2.length ≤ referenceConfig.nMax) ∧
      c.rxq = q.flatMap fun f => List.replicate f.1 0x00#8 ++ encodeFrame f.2)
      (withChans [wiredChan Decoder.reset [0x02, 0x41, 0x00, 0x00, 0x01, 0x00], wirelessChan .connected []] []).chans
      [[(0, [0x41]), (1, [])], []] :=
  .cons ⟨rfl, reset_decoder_invariant, rfl, by decide, by decide⟩
    (.cons ⟨rfl, reset_decoder_invariant, rfl, by decide, by decide⟩ .nil)

theorem witness_FrameAfterNoiseDelivered :
    ∃ (s : State) (c : Channel), s.chan? 0 = some c ∧ c.connected = true ∧ c.dec.Invariant ∧
      ([0x41] : List Byte).length ≤ s.cfg.nMax ∧ c.rxq = [0x05, 0x06] ++ [0x00#8] ++ encodeFrame [0x41] :=
  ⟨withChans [wiredChan midRun [0x05, 0x06, 0x00, 0x02, 0x41, 0x00]] [], wiredChan midRun [0x05, 0x06, 0x00, 0x02, 0x41, 0x00],
    rfl, rfl, midRun_invariant, by decide, by decide⟩

/-- NCH = 2: channel 2 is the first that is absent. -/
theorem witness_AbsentChannelAnswered : namedChannel (.status 2) = some 2 ∧ State.reset.nch ≤ 2 := by decide

theorem witness_ErrorsChangeNothing :
    ∃ t r, issue ⟨0x11#32, []⟩ State.reset = .next t ∧ t.rsp = State.reset.rsp ++ [r] ∧ r.status ≠ .ok :=
  ⟨_, Response.error .errNoFrame, rfl, by decide, by decide⟩

theorem witness_ReadingCommandsWriteNothing :
    (Instr.encode []).op = .encode ∧ (Instr.frameRead 0).op = .frameRead ∧ (Instr.isConnected 0).op = .isConnected ∧
      (Instr.status 0).op = .status ∧ ∃ t, exec (.status 0) State.reset = .next t := ⟨rfl, rfl, rfl, rfl, ⟨_, rfl⟩⟩

theorem witness_ChannelCommandFrame :
    namedChannel (.tryRead 0) = some 0 ∧ (∃ t, exec (.tryRead 0) State.reset = .next t) ∧
      (∃ c, State.reset.chan? 0 = some c ∧ c.connected = true) ∧
      namedChannel (.tryRead 1) = some 1 ∧ (∃ t, exec (.tryRead 1) State.reset = .next t) ∧
      (∃ c, State.reset.chan? 1 = some c ∧ c.adapter = .wireless .initial 4) ∧
      (Instr.decAppend 0 1).op = .decAppend ∧ (Instr.writeRaw 0 []).op = .writeRaw :=
  ⟨rfl, ⟨_, rfl⟩, ⟨_, rfl, rfl⟩, rfl, ⟨_, rfl⟩, ⟨_, rfl, by decide⟩, rfl, rfl⟩

theorem witness_SendBroadcastsFrame :
    ([0x10] : List Byte).length ≤ State.reset.cfg.nMax ∧ ([0x10] : List Byte).length ≤ maxDataLength ∧
      (encodeFrame [0x10]).length ≤ maxDataLength ∧ (∃ c, State.reset.chan? 1 = some c) :=
  ⟨by decide, by decide, by decide, ⟨_, rfl⟩⟩

theorem witness_FeedHoldsPayload :
    ∃ (s : State) (c : Channel), s.chan? (0 : ChannelIx).val = some c ∧ c.dec.Invariant ∧ c.dec.phase = .idle ∧
      c.dec.ready = false ∧ ([0x00, 0x11] : List Byte).length ≤ s.cfg.nMax :=
  ⟨State.reset, wiredChan Decoder.reset [], rfl, reset_decoder_invariant, rfl, rfl, by decide⟩

end Sys2Proof.Tests
end

/-! PROOFS of the statements about what every step keeps (10_state.md). `Channel.Act` lists what an input can do to one
channel, `State.Advances` what a step other than a reset can do to the machine, `step_cases` says that it can do nothing
else; each statement then asks what one `Channel.Act` keeps. -/

namespace Sys2Proof.Machine

open Sys2Proof

/-! The decoder keeps its invariants (10_state.md R29). -/

theorem Decoder.reset_invariant : Decoder.reset.Invariant := by
  constructor <;> simp [Decoder.reset]

/-- StartMarker is called with no zero owed, and its marker 0x01 opens no full run (40_codec.md R110). -/
theorem Decoder.startMarker_invariant {d : Decoder} {m : Byte} (hm : m ≠ delimiter) (hzp : d.zp = false)
    (hready : d.ready = false) : (d.startMarker m).Invariant := by
  have hpos : m.toNat ≠ 0 := fun h => hm (BitVec.eq_of_toNat_eq h)
  have hlt : m.toNat < 256 := m.isLt
  by_cases hone : m.toNat - 1 = 0
  · have hfull : m ≠ fullMarker := by rintro rfl; simp [fullMarker] at hone
    constructor <;> simp [Decoder.startMarker_phase, hone, hready, hfull]
  · constructor <;> simp [Decoder.startMarker_phase, Decoder.startMarker_zp, hone, hready, hzp]
    omega

/-- Discarding to IDLE or to HUNT leaves nothing behind (40_codec.md R111). -/
theorem Decoder.discard_invariant {d : Decoder} (hready : d.ready = false) {ph : Phase} (hph : ph = .idle ∨ ph = .hunt) :
    (d.discard ph).Invariant := by
  rcases hph with rfl | rfl <;> constructor <;> simp [hready]

/-- Release turns the view into the empty decoder, since READY = 1 stands in phase IDLE only (40_codec.md R118). -/
theorem Decoder.release_invariant {d : Decoder} (h : d.Invariant) : d.release.Invariant := by
  cases hready : d.ready with
  | false => rwa [Decoder.release_of_not_ready hready]
  | true =>
    have hphase := h.ready hready
    have hidle := h.idle hphase
    constructor <;> simp [Decoder.release, hready, hphase, hidle]

/-- DecStep keeps the decoder invariants, phase by phase (40_codec.md R112 to R117). -/
theorem Decoder.step_invariant {d : Decoder} (h : d.Invariant) (hready : d.ready = false) (cap : Nat) (b : Byte) :
    (d.step cap b).1.Invariant := by
  unfold Decoder.step
  cases hphase : d.phase with
  | hunt =>
    obtain ⟨hbuf, hrem, hfull, hzp, -⟩ := h.hunt hphase
    simp only [Decoder.stepHunt]
    split
    · constructor <;> simp [hbuf, hrem, hfull, hzp, hready]
    · exact h
  | idle =>
    simp only [Decoder.stepIdle]
    split
    · exact h
    · next hb => exact Decoder.startMarker_invariant hb (h.idle hphase).2.2 hready
  | marker =>
    simp only [Decoder.stepMarker]
    split
    · constructor <;> simp
    · next hb =>
      split
      · split
        · exact Decoder.discard_invariant hready (.inr rfl)
        · exact Decoder.startMarker_invariant hb rfl hready
      · next hzp => exact Decoder.startMarker_invariant hb (by simpa using hzp) hready
  | run =>
    obtain ⟨hpos, hle, hzp, -⟩ := h.run hphase
    simp only [Decoder.stepRun]
    split
    · exact Decoder.discard_invariant hready (.inl rfl)
    · split
      · exact Decoder.discard_invariant hready (.inr rfl)
      · split
        · next hlast => constructor <;> simp [hlast, hready]
        · next hmore =>
          constructor <;> simp [hphase, hready, hzp]
          omega

/-! The buffer stays within DEC_CAP (10_state.md R24). -/

theorem Decoder.release_buf_le (d : Decoder) : d.release.buf.length ≤ d.buf.length := by
  unfold Decoder.release
  split <;> simp

/-- DecStep appends to a buffer below DEC_CAP only (40_codec.md R115, R117). -/
theorem Decoder.step_buf_le {cap : Nat} {d : Decoder} (h : d.buf.length ≤ cap) (b : Byte) :
    (d.step cap b).1.buf.length ≤ cap := by
  unfold Decoder.step
  cases d.phase with
  | hunt => simp only [Decoder.stepHunt]; split <;> exact h
  | idle => simp only [Decoder.stepIdle]; split <;> simpa using h
  | marker =>
    simp only [Decoder.stepMarker]
    split
    · exact h
    · split
      · split
        · simp
        · simp; omega
      · simpa using h
  | run =>
    simp only [Decoder.stepRun]
    split
    · simp
    · split
      · simp
      · split <;> simp <;> omega

/-! The drain of TryRead. -/

/-- What DecStep keeps from READY = 0 on, the drain keeps: it stops at the first completed frame (41_channel.md R154). -/
theorem drain_keeps_dec {P : Decoder → Prop} {cap : Nat}
    (hstep : ∀ d b, d.ready = false → P d → P (d.step cap b).1) {d : Decoder} (hready : d.ready = false) (h : P d)
    (a : Adapter) (q : List Byte) : P (drain cap d a q).dec := by
  induction q generalizing d a with
  | nil => exact h
  | cons b q ih =>
    cases ha : a.connected with
    | false =>
      rw [drain_cons_unconnected cap d ha]
      exact ih hready h _
    | true =>
      rw [drain_cons_connected cap d ha]
      split
      · exact hstep d b hready h
      · next hcode =>
        have hready' : (d.step cap b).1.ready = false :=
          Bool.eq_false_iff.2 fun hr => hcode ((Decoder.step_ready hready cap b).1 hr)
        exact ih hready' (hstep d b hready h) a

/-- The drain moves the Connection State and keeps the kind and the selector (42_bringup.md R192). -/
theorem drain_adapter_fields (cap : Nat) (d : Decoder) (a : Adapter) (q : List Byte) :
    (drain cap d a q).adapter.kindField = a.kindField ∧ (drain cap d a q).adapter.selField = a.selField := by
  induction q generalizing d a with
  | nil => exact ⟨rfl, rfl⟩
  | cons b q ih =>
    cases ha : a.connected with
    | false =>
      obtain ⟨hkind, hsel⟩ := a.matchByte_fields b
      rw [drain_cons_unconnected cap d ha, ← hkind, ← hsel]
      exact ih d _
    | true =>
      rw [drain_cons_connected cap d ha]
      split
      · exact ⟨rfl, rfl⟩
      · exact ih _ a

/-- The kind and the selector decide whether an adapter is the one the Channel Set asks for. -/
theorem Adapter.fits_of_fields {spec : ChannelSpec} {a a' : Adapter} (hkind : a'.kindField = a.kindField)
    (hsel : a'.selField = a.selField) (h : a.Fits spec) : a'.Fits spec := by
  cases spec with
  | wired =>
    cases a with
    | wired => cases a' with
      | wired => trivial
      | wireless => simp [Adapter.kindField] at hkind
    | wireless => exact h.elim
  | wireless desiredBaud =>
    cases a with
    | wired => exact h.elim
    | wireless cs sel => cases a' with
      | wired => simp [Adapter.kindField] at hkind
      | wireless cs' sel' =>
        obtain rfl : sel' = sel := by simpa [Adapter.selField, BitVec.ofFin.injEq] using hsel
        exact h

/-! What can happen to one channel. -/

/-- The operations of FTC on one channel record: RX_ARRIVE (41_channel.md R152), DEC_APPEND while no view is held
(40_codec.md R119), Release (R118), TryRead (41_channel.md R154), AdapterWrite (R157). -/
inductive Channel.Act (cfg : Config) (c : Channel) : Channel → Prop where
  | arrive (b : Byte) : Channel.Act cfg c (c.arrive cfg b)
  | append (b : Byte) (hready : c.dec.ready = false) :
      Channel.Act cfg c { c with dec := (c.dec.step (decCap cfg) b).1 }
  | release : Channel.Act cfg c { c with dec := c.dec.release }
  | tryRead : Channel.Act cfg c (c.tryRead cfg).chan
  | write (bs : List Byte) : Channel.Act cfg c (c.adapterWrite bs)

/-- Any number of operations on one channel, one after the other. -/
abbrev Channel.Reaches (cfg : Config) : Channel → Channel → Prop := Relation.ReflTransGen (Channel.Act cfg)

/-- What every operation keeps is kept. -/
theorem Channel.Reaches.keeps {cfg : Config} {P : Channel → Prop} (hact : ∀ c c', c.Act cfg c' → P c → P c')
    {c c' : Channel} (h : Channel.Reaches cfg c c') (hc : P c) : P c' := by
  induction h with
  | refl => exact hc
  | tail _ hlast ih => exact hact _ _ hlast ih

/-- Each operation keeps the decoder invariants (10_state.md R29). -/
theorem Channel.Act.dec_invariant {cfg : Config} {c c' : Channel} (h : c.Act cfg c') (hc : c.dec.Invariant) :
    c'.dec.Invariant := by
  cases h with
  | arrive b => rcases c.arrive_cases cfg b with ⟨-, heq⟩ | ⟨-, heq⟩ <;> rwa [heq]
  | append b hready => exact Decoder.step_invariant hc hready _ b
  | release => exact Decoder.release_invariant hc
  | tryRead =>
    exact drain_keeps_dec (P := Decoder.Invariant) (fun _ b hready hd => Decoder.step_invariant hd hready _ b)
      c.dec.release_ready (Decoder.release_invariant hc) c.adapter c.rxq
  | write bs => rwa [Channel.adapterWrite_eq]

/-- Each operation keeps the buffer within DEC_CAP (10_state.md R24). -/
theorem Channel.Act.buf_le {cfg : Config} {c c' : Channel} (h : c.Act cfg c') (hc : c.dec.buf.length ≤ decCap cfg) :
    c'.dec.buf.length ≤ decCap cfg := by
  cases h with
  | arrive b => rcases c.arrive_cases cfg b with ⟨-, heq⟩ | ⟨-, heq⟩ <;> rwa [heq]
  | append b => exact Decoder.step_buf_le hc b
  | release => exact c.dec.release_buf_le.trans hc
  | tryRead =>
    exact drain_keeps_dec (P := fun d => d.buf.length ≤ decCap cfg) (fun _ b _ hd => Decoder.step_buf_le hd b)
      c.dec.release_ready (c.dec.release_buf_le.trans hc) c.adapter c.rxq
  | write bs => rwa [Channel.adapterWrite_eq]

/-- Each operation keeps the receive queue within RX_DEPTH (10_state.md R32). -/
theorem Channel.Act.rxq_le {cfg : Config} {c c' : Channel} (h : c.Act cfg c') (hc : c.rxq.length ≤ cfg.rxDepth) :
    c'.rxq.length ≤ cfg.rxDepth := by
  cases h with
  | arrive b =>
    rcases c.arrive_cases cfg b with ⟨hroom, heq⟩ | ⟨-, heq⟩
    · rw [heq, List.length_append]
      exact hroom
    · rwa [heq]
  | append b => exact hc
  | release => exact hc
  | tryRead => exact (drain_shortens (decCap cfg) c.dec.release c.adapter c.rxq).1.trans hc
  | write bs => rwa [Channel.adapterWrite_eq]

/-- Each operation keeps the kind and the selector (10_state.md R31). -/
theorem Channel.Act.adapter_fields {cfg : Config} {c c' : Channel} (h : c.Act cfg c') :
    c'.adapter.kindField = c.adapter.kindField ∧ c'.adapter.selField = c.adapter.selField := by
  cases h with
  | arrive b => rcases c.arrive_cases cfg b with ⟨-, heq⟩ | ⟨-, heq⟩ <;> rw [heq] <;> exact ⟨rfl, rfl⟩
  | append b => exact ⟨rfl, rfl⟩
  | release => exact ⟨rfl, rfl⟩
  | tryRead => exact drain_adapter_fields (decCap cfg) c.dec.release c.adapter c.rxq
  | write bs => rw [Channel.adapterWrite_eq]; exact ⟨rfl, rfl⟩

/-- Each operation only appends to TXQ and WRQ (10_state.md R33, R34). -/
theorem Channel.Act.traces_prefix {cfg : Config} {c c' : Channel} (h : c.Act cfg c') :
    c.txq <+: c'.txq ∧ c.wrq <+: c'.wrq := by
  cases h with
  | arrive b =>
    rcases c.arrive_cases cfg b with ⟨-, heq⟩ | ⟨-, heq⟩ <;> rw [heq] <;> exact ⟨List.prefix_rfl, List.prefix_rfl⟩
  | append b => exact ⟨List.prefix_rfl, List.prefix_rfl⟩
  | release => exact ⟨List.prefix_rfl, List.prefix_rfl⟩
  | tryRead => exact ⟨List.prefix_append _ _, List.prefix_rfl⟩
  | write bs =>
    rw [Channel.adapterWrite_eq]
    refine ⟨?_, List.prefix_append _ _⟩
    dsimp only
    split
    · exact List.prefix_append _ _
    · exact List.prefix_rfl

/-- Each operation keeps a channel's invariant. -/
theorem Channel.Act.invariant {cfg : Config} {spec : ChannelSpec} {c c' : Channel} (h : c.Act cfg c')
    (hc : c.Invariant cfg spec) : c'.Invariant cfg spec where
  dec := h.dec_invariant hc.dec
  buf := h.buf_le hc.buf
  rxq := h.rxq_le hc.rxq
  adapter := Adapter.fits_of_fields h.adapter_fields.1 h.adapter_fields.2 hc.adapter

theorem Channel.Reaches.adapter_fields {cfg : Config} {c c' : Channel} (h : Channel.Reaches cfg c c') :
    c'.adapter.kindField = c.adapter.kindField ∧ c'.adapter.selField = c.adapter.selField :=
  h.keeps (P := fun x => x.adapter.kindField = c.adapter.kindField ∧ x.adapter.selField = c.adapter.selField)
    (fun _ _ hact hx => ⟨hact.adapter_fields.1.trans hx.1, hact.adapter_fields.2.trans hx.2⟩) ⟨rfl, rfl⟩

theorem Channel.Reaches.traces_prefix {cfg : Config} {c c' : Channel} (h : Channel.Reaches cfg c c') :
    c.txq <+: c'.txq ∧ c.wrq <+: c'.wrq :=
  h.keeps (P := fun x => c.txq <+: x.txq ∧ c.wrq <+: x.wrq)
    (fun _ _ hact hx => ⟨hx.1.trans hact.traces_prefix.1, hx.2.trans hact.traces_prefix.2⟩)
    ⟨List.prefix_rfl, List.prefix_rfl⟩

/-! A poll is a run of TryReads. -/

theorem Channel.pollLoop_reaches (cfg : Config) (fuel : Nat) (c : Channel) :
    Channel.Reaches cfg c (Channel.pollLoop cfg fuel c).chan := by
  induction fuel generalizing c with
  | zero => exact .refl
  | succ fuel ih =>
    rw [Channel.pollLoop_succ]
    split
    · exact .head .tryRead (ih _)
    · exact .single .tryRead

/-- A delivered payload is the buffer of the channel after some of these TryReads (43_mux.md R211). -/
theorem Channel.pollLoop_payload (cfg : Config) (fuel : Nat) {c : Channel} {p : List Byte}
    (hp : p ∈ (Channel.pollLoop cfg fuel c).payloads) : ∃ c', Channel.Reaches cfg c c' ∧ p = c'.dec.buf := by
  induction fuel generalizing c with
  | zero => cases hp
  | succ fuel ih =>
    rw [Channel.pollLoop_succ] at hp
    split at hp
    · rcases List.mem_cons.1 hp with rfl | hp
      · exact ⟨_, .single .tryRead, rfl⟩
      · obtain ⟨c', hreach, rfl⟩ := ih hp
        exact ⟨c', .head .tryRead hreach, rfl⟩
    · cases hp

/-- A delivery of a poll carries its channel's index and a payload that polling this channel answers (43_mux.md R212). -/
theorem mem_pollFrom_deliveries {cfg : Config} {k : Nat} {cs : List Channel} {d : Delivery}
    (hd : d ∈ (pollFrom cfg k cs).deliveries) :
    ∃ i c, cs[i]? = some c ∧ d.ch = k + i ∧ d.payload ∈ (c.poll cfg).payloads := by
  induction cs generalizing k with
  | nil => cases hd
  | cons c cs ih =>
    rw [pollFrom_cons] at hd
    rcases List.mem_append.1 hd with hd | hd
    · obtain ⟨p, hp, rfl⟩ := List.mem_map.1 hd
      exact ⟨0, c, rfl, rfl, hp⟩
    · obtain ⟨i, c', hc', hch, hp⟩ := ih hd
      exact ⟨i + 1, c', by simpa using hc', by omega, hp⟩

/-! What one step can do to the machine. -/

/-- `s` becomes `t` by operations on its channels, deliveries of their buffers and proper responses. -/
structure State.Advances (s t : State) : Prop where
  cfg : t.cfg = s.cfg
  nch : t.nch = s.nch
  chans : ∀ k c, s.chan? k = some c → ∃ c', t.chan? k = some c' ∧ Channel.Reaches s.cfg c c'
  dlv : ∃ ds, t.dlv = s.dlv ++ ds ∧
    ∀ d ∈ ds, ∃ c c', s.chan? d.ch = some c ∧ Channel.Reaches s.cfg c c' ∧ d.payload = c'.dec.buf
  rsp : ∃ rs, t.rsp = s.rsp ++ rs ∧ ∀ r ∈ rs, r.Proper

theorem State.Advances.refl (s : State) : s.Advances s where
  cfg := rfl
  nch := rfl
  chans _ c hc := ⟨c, hc, .refl⟩
  dlv := ⟨[], by simp⟩
  rsp := ⟨[], by simp⟩

/-- Operations on one channel. -/
theorem State.Advances.setChan {s : State} {ch : Nat} {c c' : Channel} (hc : s.chan? ch = some c)
    (h : Channel.Reaches s.cfg c c') : s.Advances (s.setChan ch c') where
  cfg := rfl
  nch := s.nch_setChan ch c'
  chans k x hx := by
    by_cases hk : ch = k
    · subst hk
      obtain rfl : c = x := Option.some.inj (hc.symm.trans hx)
      exact ⟨c', s.chan?_setChan_self c' ((s.chan?_isSome_iff ch).1 ⟨c, hc⟩), h⟩
    · exact ⟨x, (s.chan?_setChan_ne c' hk).trans hx, .refl⟩
  dlv := ⟨[], by simp⟩
  rsp := ⟨[], by simp⟩

/-- Operations on every channel. -/
theorem State.Advances.mapChans (s : State) {f : Channel → Channel} (h : ∀ c, Channel.Reaches s.cfg c (f c)) :
    s.Advances { s with chans := s.chans.map f } where
  cfg := rfl
  nch := List.length_map f
  chans k c hc := ⟨f c, by simpa [State.chan?] using ⟨c, hc, rfl⟩, h c⟩
  dlv := ⟨[], by simp⟩
  rsp := ⟨[], by simp⟩

theorem State.Advances.deliver {s t : State} (h : s.Advances t) {ds : List Delivery}
    (hds : ∀ d ∈ ds, ∃ c c', s.chan? d.ch = some c ∧ Channel.Reaches s.cfg c c' ∧ d.payload = c'.dec.buf) :
    s.Advances (t.deliver ds) where
  cfg := h.cfg
  nch := h.nch
  chans := h.chans
  dlv := by
    obtain ⟨before, hdlv, hbefore⟩ := h.dlv
    refine ⟨before ++ ds, by rw [State.deliver_dlv, hdlv, List.append_assoc], fun d hd => ?_⟩
    exact (List.mem_append.1 hd).elim (hbefore d) (hds d)
  rsp := h.rsp

theorem State.Advances.respond {s t : State} (h : s.Advances t) {r : Response} (hr : r.Proper) :
    s.Advances (t.respond r) where
  cfg := h.cfg
  nch := h.nch
  chans := h.chans
  dlv := h.dlv
  rsp := by
    obtain ⟨before, hrsp, hbefore⟩ := h.rsp
    refine ⟨before ++ [r], by rw [State.respond_rsp, hrsp, List.append_assoc], fun x hx => ?_⟩
    rcases List.mem_append.1 hx with hx | hx
    · exact hbefore x hx
    · exact List.mem_singleton.1 hx ▸ hr

theorem State.Advances.answer {s t : State} (h : s.Advances t) (v0 v1 : Word) (data : List Byte) :
    s.Advances (t.answer v0 v1 data) :=
  h.respond fun hst => absurd rfl hst

theorem State.Advances.reject (s : State) (st : Status) : s.Advances (s.reject st) :=
  (State.Advances.refl s).respond fun _ => rfl

/-- A channel command advances the machine if it does so on an existing channel. -/
theorem State.Advances.onChannel {s : State} {ch : ChannelIx} {perform : Channel → State}
    (h : ∀ c, s.chan? ch.val = some c → s.Advances (perform c)) : s.Advances (s.onChannel ch perform) := by
  rcases s.onChannel_cases ch perform with ⟨-, heq⟩ | ⟨c, hc, heq⟩
  · rw [heq]
    exact State.Advances.reject s _
  · rw [heq]
    exact h c hc

theorem State.Advances.onPayload {s perform : State} {payload : List Byte} (h : s.Advances perform) :
    s.Advances (s.onPayload payload perform) := by
  rcases s.onPayload_cases payload perform with ⟨-, heq⟩ | ⟨-, heq⟩
  · rw [heq]
    exact State.Advances.reject s _
  · rwa [heq]

/-- POLL runs TryReads on every channel and delivers the buffers they complete (43_mux.md R211). -/
theorem execPoll_advances (s : State) : ∃ t, execPoll s = .next t ∧ s.Advances t := by
  refine ⟨_, rfl, State.Advances.answer (State.Advances.deliver ?_ fun d hd => ?_) _ _ _⟩
  · rw [pollFrom_chans]
    exact State.Advances.mapChans s fun c => c.pollLoop_reaches s.cfg _
  · obtain ⟨i, c, hc, hch, hp⟩ := mem_pollFrom_deliveries hd
    obtain ⟨c', hreach, hbuf⟩ := Channel.pollLoop_payload s.cfg _ hp
    exact ⟨c, c', by rwa [hch, Nat.zero_add], hreach, hbuf⟩

/-- Every command answers a next state, and only advances the machine to it. -/
theorem exec_advances (i : Instr) (s : State) : ∃ t, exec i s = .next t ∧ s.Advances t := by
  cases i with
  | encode payload => exact ⟨_, rfl, State.Advances.onPayload ((State.Advances.refl s).answer _ _ _)⟩
  | decAppend ch b =>
    refine ⟨_, rfl, State.Advances.onChannel fun c hc => ?_⟩
    split
    · exact State.Advances.reject s _
    · next hready => exact (State.Advances.setChan hc (.single (.append b (by simpa using hready)))).answer _ _ _
  | decRelease ch =>
    exact ⟨_, rfl, State.Advances.onChannel fun c hc => (State.Advances.setChan hc (.single .release)).answer _ _ _⟩
  | tryRead ch =>
    exact ⟨_, rfl, State.Advances.onChannel fun c hc => (State.Advances.setChan hc (.single .tryRead)).answer _ _ _⟩
  | frameRead ch =>
    refine ⟨_, rfl, State.Advances.onChannel fun c _ => ?_⟩
    split
    · exact (State.Advances.refl s).answer _ _ _
    · exact State.Advances.reject s _
  | writeRaw ch bs =>
    exact ⟨_, rfl, State.Advances.onChannel fun c hc => (State.Advances.setChan hc (.single (.write bs))).answer _ _ _⟩
  | isConnected ch => exact ⟨_, rfl, State.Advances.onChannel fun c _ => (State.Advances.refl s).answer _ _ _⟩
  | status ch => exact ⟨_, rfl, State.Advances.onChannel fun c _ => (State.Advances.refl s).answer _ _ _⟩
  | poll => exact execPoll_advances s
  | write bs => exact ⟨_, rfl, (State.Advances.mapChans s fun c => .single (.write bs)).answer _ _ _⟩

theorem issue_advances (cmd : Command) (s : State) : ∃ t, issue cmd s = .next t ∧ s.Advances t := by
  unfold issue
  split
  · exact exec_advances _ s
  · exact ⟨_, rfl, State.Advances.reject s _⟩

theorem State.rxArrive_advances {s t : State} {ch : Nat} {b : Byte} (h : s.rxArrive ch b = .next t) : s.Advances t := by
  unfold State.rxArrive at h
  split at h
  · cases h
  · next c hc =>
    cases h
    exact State.Advances.setChan hc (.single (.arrive b))

/-- Taking the input off the queue is seen by no field that `Advances` speaks of. -/
theorem State.Advances.of_taken {s t : State} (h : s.taken.Advances t) : s.Advances t :=
  ⟨h.cfg, h.nch, h.chans, h.dlv, h.rsp⟩

/-- Everything a step can do: it is the reset, or it advances the machine. -/
theorem step_cases {s t : State} (h : step s = .next t) :
    (s.resetNext ∧ t = s.taken.restart) ∨ s.Advances t := by
  unfold step at h
  split at h
  · cases h
    exact .inr (.refl s)
  · next cmd _ =>
    obtain ⟨t', ht', hadv⟩ := issue_advances cmd s.taken
    cases ht'.symm.trans h
    exact .inr hadv.of_taken
  · exact .inr (State.rxArrive_advances h).of_taken
  · next hreset =>
    cases h
    exact .inl ⟨hreset, rfl⟩

/-- A step other than a reset advances the machine. -/
theorem step_advances {s t : State} (hreset : ¬ s.resetNext) (h : step s = .next t) : s.Advances t :=
  (step_cases h).resolve_left fun hr => hreset hr.1

/-! What advancing keeps. -/

/-- A channel after the step comes from one before it. -/
theorem State.Advances.exists_source {s t : State} (h : s.Advances t) {k : Nat} {c' : Channel} (hc' : t.chan? k = some c') :
    ∃ c, s.chan? k = some c ∧ Channel.Reaches s.cfg c c' := by
  have hk : k < s.nch := h.nch ▸ (t.chan?_isSome_iff k).1 ⟨c', hc'⟩
  obtain ⟨c, hc⟩ := (s.chan?_isSome_iff k).2 hk
  obtain ⟨x, hx, hreach⟩ := h.chans k c hc
  obtain rfl : x = c' := Option.some.inj (hx.symm.trans hc')
  exact ⟨c, hc, hreach⟩

theorem State.Advances.dec_invariant {s t : State} (h : s.Advances t) (hs : ∀ c ∈ s.chans, c.dec.Invariant) :
    ∀ c ∈ t.chans, c.dec.Invariant := by
  intro c' hmem
  obtain ⟨k, hk⟩ := List.mem_iff_getElem?.1 hmem
  obtain ⟨c, hc, hreach⟩ := h.exists_source hk
  exact hreach.keeps (P := fun x => x.dec.Invariant) (fun _ _ hact => hact.dec_invariant) (hs c (List.mem_of_getElem? hc))

/-- The invariant speaks of the channels one by one: each record beside its entry of the Channel Set. -/
theorem forall₂_invariant_iff (cfg : Config) (chans : List Channel) :
    List.Forall₂ (Channel.Invariant cfg) cfg.channels chans ↔
      cfg.channels.length = chans.length ∧
        ∀ (k : Nat) (spec : ChannelSpec) (c : Channel),
          cfg.channels[k]? = some spec → chans[k]? = some c → c.Invariant cfg spec := by
  rw [List.forall₂_iff_get]
  refine and_congr_right fun _ => ⟨fun h k spec c hspec hc => ?_, fun h k hk hk' => ?_⟩
  · obtain ⟨hk, rfl⟩ := List.getElem?_eq_some_iff.1 hspec
    obtain ⟨hk', rfl⟩ := List.getElem?_eq_some_iff.1 hc
    exact h k hk hk'
  · exact h k _ _ (List.getElem?_eq_getElem hk) (List.getElem?_eq_getElem hk')

/-- An existing channel has an entry in the Channel Set and meets its invariant there. -/
theorem State.Invariant.chan {s : State} (h : s.Invariant) {k : Nat} {c : Channel} (hc : s.chan? k = some c) :
    ∃ spec, c.Invariant s.cfg spec := by
  obtain ⟨hlen, hall⟩ := (forall₂_invariant_iff s.cfg s.chans).1 h.chans
  have hk : k < s.cfg.channels.length := hlen ▸ (s.chan?_isSome_iff k).1 ⟨c, hc⟩
  exact ⟨_, hall k _ c (List.getElem?_eq_getElem hk) hc⟩

/-- Advancing keeps the machine's invariant. -/
theorem State.Advances.invariant {s t : State} (h : s.Advances t) (hs : s.Invariant) : t.Invariant where
  cfg := h.cfg ▸ hs.cfg
  chans := by
    obtain ⟨hlen, hall⟩ := (forall₂_invariant_iff s.cfg s.chans).1 hs.chans
    rw [h.cfg]
    refine (forall₂_invariant_iff s.cfg t.chans).2 ⟨hlen.trans h.nch.symm, fun k spec c' hspec hc' => ?_⟩
    obtain ⟨c, hc, hreach⟩ := h.exists_source hc'
    exact hreach.keeps (fun _ _ hact => hact.invariant) (hall k spec c hspec hc)
  dlv := by
    obtain ⟨ds, hdlv, hds⟩ := h.dlv
    rw [hdlv, h.nch, h.cfg]
    intro d hd
    rcases List.mem_append.1 hd with hd | hd
    · exact hs.dlv d hd
    · obtain ⟨c, c', hc, hreach, hpayload⟩ := hds d hd
      obtain ⟨spec, hinv⟩ := hs.chan hc
      refine ⟨(s.chan?_isSome_iff d.ch).1 ⟨c, hc⟩, ?_⟩
      rw [hpayload]
      exact hreach.keeps (P := fun x => x.dec.buf.length ≤ decCap s.cfg) (fun _ _ hact => hact.buf_le) hinv.buf
  rsp := by
    obtain ⟨rs, hrsp, hrs⟩ := h.rsp
    rw [hrsp]
    exact fun r hr => (List.mem_append.1 hr).elim (hs.rsp r) (hrs r)

/-! What reset establishes (70_reset_and_hazards.md R261). -/

theorem Adapter.construct_fits (spec : ChannelSpec) : (Adapter.construct spec).Fits spec := by
  cases spec with
  | wired => trivial
  | wireless desiredBaud => rfl

theorem Channel.construct_invariant (cfg : Config) (spec : ChannelSpec) :
    (Channel.construct cfg spec).Invariant cfg spec :=
  ⟨Decoder.reset_invariant, Nat.zero_le _, Nat.zero_le _, Adapter.construct_fits spec⟩

theorem constructed_dec_invariant (cfg : Config) :
    ∀ c ∈ cfg.channels.map (Channel.construct cfg), c.dec.Invariant := by
  intro c hc
  obtain ⟨spec, -, rfl⟩ := List.mem_map.1 hc
  exact (Channel.construct_invariant cfg spec).dec

theorem State.restart_invariant {s : State} (h : s.cfg.Valid) : s.restart.Invariant where
  cfg := h
  chans := List.forall₂_map_right_iff.2 (List.forall₂_same.2 fun spec _ => Channel.construct_invariant s.cfg spec)
  dlv := by simp
  rsp := by simp

/-! The statements. -/

/-- Settles O16: a reset establishes the invariant from valid parameters, and every other step keeps it channel by
channel. -/
theorem stepKeepsInvariant : Obligations.StepKeepsInvariant := by
  intro s t hs hstep
  rcases step_cases hstep with ⟨-, rfl⟩ | hadv
  · exact State.restart_invariant hs.cfg
  · exact hadv.invariant hs

/-- Settles O18: construction makes the empty decoder, and every operation on a channel keeps the seven invariants. -/
theorem decoderInvariantsPreserved : Obligations.DecoderInvariantsPreserved := by
  refine ⟨constructed_dec_invariant, fun s t hs hstep => ?_⟩
  rcases step_cases hstep with ⟨-, rfl⟩ | hadv
  · exact constructed_dec_invariant s.cfg
  · exact hadv.dec_invariant hs

/-- Settles O19: every operation on a channel only appends to its traces. -/
theorem tracesAppendOnly : Obligations.TracesAppendOnly := by
  intro s t hreset hstep
  have hadv := step_advances hreset hstep
  obtain ⟨ds, hdlv, -⟩ := hadv.dlv
  obtain ⟨rs, hrsp, -⟩ := hadv.rsp
  refine ⟨⟨ds, hdlv.symm⟩, ⟨rs, hrsp.symm⟩, fun k c hc => ?_⟩
  obtain ⟨c', hc', hreach⟩ := hadv.chans k c hc
  exact ⟨c', hc', hreach.traces_prefix⟩

/-- Settles O20: a reset keeps the parameters, and every other operation also each channel's kind and selector. -/
theorem parametersAndSelectorsFixed : Obligations.ParametersAndSelectorsFixed := by
  intro s t hstep
  refine ⟨?_, fun hreset => ?_⟩
  · rcases step_cases hstep with ⟨-, rfl⟩ | hadv
    · rfl
    · exact hadv.cfg
  · have hadv := step_advances hreset hstep
    refine ⟨hadv.nch, fun k c hc => ?_⟩
    obtain ⟨c', hc', hreach⟩ := hadv.chans k c hc
    exact ⟨c', hc', hreach.adapter_fields⟩

end Sys2Proof.Machine

/-! PROOFS of the statements about the byte order (20_memory.md). The word of a command comes back from its four bytes, and a
transport that knows OP and IMM asks for exactly the bytes of the data phase. -/

namespace Sys2Proof

/-- The four bytes of a word, least significant first, make the word again (20_memory.md R53). -/
theorem wordOfBytes_extractLsb' (w : Word) :
    wordOfBytes (w.extractLsb' 0 8) (w.extractLsb' 8 8) (w.extractLsb' 16 8) (w.extractLsb' 24 8) = w := by
  rw [wordOfBytes, BitVec.extractLsb'_append_extractLsb'_eq_extractLsb' (start₁ := 0) (len₁ := 8) rfl,
    BitVec.extractLsb'_append_extractLsb'_eq_extractLsb' (start₁ := 0) (len₁ := 8 + 8) rfl,
    BitVec.extractLsb'_append_extractLsb'_eq_extractLsb' (start₁ := 0) (len₁ := 8 + (8 + 8)) rfl]
  exact BitVec.extractLsb'_eq_self

/-- Reading a command's bytes gives it back where OP and IMM announce the length of its data phase (30_encoding.md R82). -/
theorem readCommand_bytes_append {c : Command} (h : dataBytesAfter c.word = c.data.length) (rest : List Byte) :
    readCommand (c.bytes ++ rest) = some (c, rest) := by
  simp [Command.bytes, wordBytes, readCommand, wordOfBytes_extractLsb', h]

/-- What a transport reads after a word with a row's opcode is the data phase that the row asks for (30_encoding.md R74,
R82). -/
theorem dataBytesAfter_of_opField {w : Word} {op : Op} (h : opField w = op.code) :
    dataBytesAfter w = op.dataLength w := by
  cases op <;> simp [dataBytesAfter, h, Op.code, Op.dataLength]

/-- The word of a well-formed command asks for the data phase that the command has (30_encoding.md R74). -/
theorem Instr.dataLength_encode {i : Instr} (h : i.WellFormed) : i.op.dataLength (Sys2Proof.encode i).word = i.data.length := by
  have himm : (immField (Sys2Proof.encode i).word).toNat = i.immBits.toNat :=
    congrArg BitVec.toNat (immField_packWord _ _ _)
  cases i with
  | encode payload => exact himm.trans (toNat_length_of_le ((Instr.wellFormed_encode payload).1 h))
  | writeRaw ch bs => exact himm.trans (toNat_length_of_le ((Instr.wellFormed_writeRaw ch bs).1 h))
  | write bs => exact himm.trans (toNat_length_of_le ((Instr.wellFormed_write bs).1 h))
  | decAppend | decRelease | tryRead | frameRead | isConnected | status | poll => rfl

/-- Settles O7: the word comes back from its four bytes, and its opcode and IMM say how many bytes follow it. -/
theorem serialisedCommandReadsBack : Obligations.SerialisedCommandReadsBack := by
  intro i rest hwf
  have hop : opField (encode i).word = i.op.code := opField_packWord _ _ _
  exact readCommand_bytes_append ((dataBytesAfter_of_opField hop).trans (Instr.dataLength_encode hwf)) rest

end Sys2Proof

/-! PROOFS of the statements about what a command writes (20_memory.md R58). -/

namespace Sys2Proof.Machine

open Sys2Proof

/-- A channel command that only responds on an existing channel only responds. -/
theorem State.onChannel_eq_respond {s : State} {perform : Channel → State} (ch : ChannelIx)
    (h : ∀ c, ∃ r, perform c = s.respond r) : ∃ r, s.onChannel ch perform = s.respond r := by
  rcases s.onChannel_cases ch perform with ⟨-, heq⟩ | ⟨c, -, heq⟩
  · exact ⟨_, heq⟩
  · rw [heq]
    exact h c

/-- Settles O56: on the payload or on the channel, each of the four commands answers or rejects, and writes nothing else. -/
theorem readingCommandsWriteNothing : Obligations.ReadingCommandsWriteNothing := by
  intro i s t hop hexec
  change ∃ r, t = s.respond r
  cases i with
  | encode payload =>
    cases hexec
    rcases s.onPayload_cases payload _ with ⟨-, heq⟩ | ⟨-, heq⟩ <;> exact ⟨_, heq⟩
  | frameRead ch =>
    cases hexec
    refine State.onChannel_eq_respond ch fun c => ?_
    split <;> exact ⟨_, rfl⟩
  | isConnected ch =>
    cases hexec
    exact State.onChannel_eq_respond ch fun c => ⟨_, rfl⟩
  | status ch =>
    cases hexec
    exact State.onChannel_eq_respond ch fun c => ⟨_, rfl⟩
  | decAppend | decRelease | tryRead | writeRaw | poll | write => simp [Instr.op] at hop

end Sys2Proof.Machine

/-! PROOFS of the statements about decoding and encoding (30_encoding.md R70 to R78, R83). `OpRow.selects_iff_fields` reads
the match and mask table as the opcode map: OP is the opcode, RSV is 0, and the fields without an operand are 0. A decoded
pair is then the encoding of its command, and the fields of its word are those the command was packed from. -/

namespace Sys2Proof

/-! The match and mask table, field by field (30_encoding.md R75, R76). -/

/-- The bits of CH and IMM that hold no operand are 0 (30_encoding.md R75). -/
def Op.UnusedZero : Op → Word → Prop
  | .encode, w => chField w = 0
  | .decAppend, w => (immField w).extractLsb' 8 8 = 0
  | .decRelease, w => immField w = 0
  | .tryRead, w => immField w = 0
  | .frameRead, w => immField w = 0
  | .writeRaw, _ => True
  | .isConnected, w => immField w = 0
  | .status, w => immField w = 0
  | .poll, w => chField w = 0 ∧ immField w = 0
  | .write, w => chField w = 0

theorem and_four_ones (x : BitVec 4) : x &&& 0xF#4 = x := BitVec.and_allOnes
theorem and_eight_ones (x : BitVec 8) : x &&& 0xFF#8 = x := BitVec.and_allOnes
theorem and_sixteen_ones (x : BitVec 16) : x &&& 0xFFFF#16 = x := BitVec.and_allOnes

/-- A 16-bit field is its upper byte above its lower byte. -/
theorem upperByte_append_lowerByte (x : BitVec 16) : x.extractLsb' 8 8 ++ x.extractLsb' 0 8 = x := by
  rw [BitVec.extractLsb'_append_extractLsb'_eq_extractLsb' (start₁ := 0) (len₁ := 8) rfl]
  exact BitVec.extractLsb'_eq_self

/-- The IMM mask of DEC_APPEND looks at the upper byte only. -/
theorem and_upperByte_eq_zero_iff (x : BitVec 16) : x &&& 0xFF00#16 = 0#16 ↔ x.extractLsb' 8 8 = 0#8 := by
  have hand : x &&& 0xFF00#16 = x.extractLsb' 8 8 ++ 0#8 := by
    calc x &&& 0xFF00#16 = (x.extractLsb' 8 8 ++ x.extractLsb' 0 8) &&& (0xFF#8 ++ 0#8) := by
          rw [upperByte_append_lowerByte]; rfl
      _ = x.extractLsb' 8 8 ++ 0#8 := by rw [BitVec.and_append, and_eight_ones, BitVec.and_zero]
  rw [hand]
  exact BitVec.append_left_inj (s₂ := 0#8) 0#8

/-- A row looks at CH and IMM where they hold no operand. -/
theorem opTable_masks_unused {r : OpRow} (hr : r ∈ opTable) (w : Word) :
    (immField w &&& immField r.mask = immField r.pattern ∧ chField w &&& chField r.mask = chField r.pattern) ↔
      r.op.UnusedZero w := by
  simp only [opTable, List.mem_cons, List.not_mem_nil, or_false] at hr
  rcases hr with rfl | rfl | rfl | rfl | rfl | rfl | rfl | rfl | rfl | rfl <;>
    simp [immField, chField, Op.UnusedZero, and_four_ones, and_sixteen_ones, and_upperByte_eq_zero_iff, and_comm]

/-- The words that a row selects, by their fields. -/
theorem OpRow.selects_iff_fields {r : OpRow} (hr : r ∈ opTable) (w : Word) :
    r.selects w = true ↔ opField w = r.op.code ∧ rsvField w = 0 ∧ r.op.UnusedZero w := by
  obtain ⟨hopMask, hrsvMask, hrsvPattern, hopPattern⟩ := opTable_covers_op r hr
  rw [OpRow.selects_iff, hopMask, hrsvMask, hrsvPattern, hopPattern, and_eight_ones, and_four_ones,
    ← opTable_masks_unused hr]
  tauto

/-- Every mnemonic has its row. -/
theorem opTable_complete (op : Op) : ∃ r ∈ opTable, r.op = op := by
  cases op <;> decide

/-- The word selects the row of a mnemonic exactly when its fields are as the opcode map says. -/
theorem selectOp_eq_some_iff (w : Word) (op : Op) :
    selectOp w = some op ↔ opField w = op.code ∧ rsvField w = 0 ∧ op.UnusedZero w := by
  constructor
  · intro h
    obtain ⟨r, hr, rfl, hsel⟩ := selects_of_selectOp h
    exact (OpRow.selects_iff_fields hr w).1 hsel
  · intro h
    obtain ⟨r, hr, rfl⟩ := opTable_complete op
    exact selectOp_of_selects hr ((OpRow.selects_iff_fields hr w).2 h)

/-- A pair decodes to what its row assembles, if its data phase has the length the row asks for (30_encoding.md R78). -/
theorem decode_eq_ok_iff (c : Command) (i : Instr) :
    decode c = .ok i ↔
      ∃ op, selectOp c.word = some op ∧ c.data.length = op.dataLength c.word ∧ op.assemble c.word c.data = i := by
  unfold decode
  cases hsel : selectOp c.word with
  | none => simp
  | some op =>
    by_cases hlen : c.data.length = op.dataLength c.word
    · simp [hlen]
    · simp [hlen]

/-! The word of a command holds its fields (30_encoding.md R71). -/

@[simp] theorem immField_encode (i : Instr) : immField (encode i).word = i.immBits := immField_packWord _ _ _
@[simp] theorem rsvField_encode (i : Instr) : rsvField (encode i).word = 0 := rsvField_packWord _ _ _
@[simp] theorem chField_encode (i : Instr) : chField (encode i).word = i.chBits := chField_packWord _ _ _
@[simp] theorem opField_encode (i : Instr) : opField (encode i).word = i.op.code := opField_packWord _ _ _

/-- The byte operand is W[23:16] (30_encoding.md R72). -/
theorem byteOperand_eq_extractLsb' (w : Word) : byteOperand w = w.extractLsb' 16 8 := by
  apply BitVec.eq_of_getLsbD_eq
  intro k hk
  simp [byteOperand, immField, hk, show k < 16 by omega]

/-! Assembling undoes encoding (30_encoding.md R72). -/

/-- The word of a command selects the command's own row. -/
theorem selectOp_encode (i : Instr) : selectOp (encode i).word = some i.op := by
  cases i with
  | encode payload => exact Laws.EncodeSelects.encode payload
  | decAppend ch b => exact Laws.EncodeSelects.decAppend ch b
  | decRelease ch => exact Laws.EncodeSelects.decRelease ch
  | tryRead ch => exact Laws.EncodeSelects.tryRead ch
  | frameRead ch => exact Laws.EncodeSelects.frameRead ch
  | writeRaw ch bs => exact Laws.EncodeSelects.writeRaw ch bs
  | isConnected ch => exact Laws.EncodeSelects.isConnected ch
  | status ch => exact Laws.EncodeSelects.status ch
  | poll => exact Laws.EncodeSelects.poll
  | write bs => exact Laws.EncodeSelects.write bs

@[simp] theorem channelOperand_packWord (imm : BitVec 16) (ch : ChannelIx) (op : BitVec 8) :
    channelOperand (packWord imm (BitVec.ofFin ch) op) = ch :=
  Fin.ext (congrArg BitVec.toNat (chField_packWord imm (BitVec.ofFin ch) op))

/-- The byte operand is the lower byte of IMM, where a byte stands zero-extended. -/
@[simp] theorem byteOperand_packWord (b : Byte) (ch : BitVec 4) (op : BitVec 8) :
    byteOperand (packWord (b.setWidth 16) ch op) = b := by
  rw [byteOperand, immField_packWord, BitVec.extractLsb'_setWidth_of_le (by decide), BitVec.extractLsb'_eq_self]

/-- The operands of a command come back from its word and its data phase. -/
theorem assemble_encode (i : Instr) : i.op.assemble (encode i).word i.data = i := by
  cases i with
  | encode | poll | write => rfl
  | decAppend ch b => simp [Instr.op, Op.assemble, Instr.data, encode, Instr.chBits, Instr.immBits]
  | writeRaw ch bs => simp [Instr.op, Op.assemble, Instr.data, encode, Instr.chBits]
  | decRelease ch | tryRead ch | frameRead ch | isConnected ch | status ch =>
    simp [Instr.op, Op.assemble, encode, Instr.chBits]

/-! Encoding undoes assembling (30_encoding.md R71, R76). -/

@[simp] theorem op_assemble (op : Op) (w : Word) (data : List Byte) : (op.assemble w data).op = op := by
  cases op <;> rfl

/-- CH of the assembled command is that of the word: its channel operand, or the 0 that R75 requires. -/
theorem chBits_assemble {op : Op} {w : Word} (h : op.UnusedZero w) (data : List Byte) :
    (op.assemble w data).chBits = chField w := by
  cases op with
  | encode => exact h.symm
  | poll => exact h.1.symm
  | write => exact h.symm
  | decAppend | decRelease | tryRead | frameRead | writeRaw | isConnected | status => rfl

/-- IMM of the assembled command is that of the word: the length of the data phase, the byte operand, or 0. -/
theorem immBits_assemble {op : Op} {w : Word} {data : List Byte} (h : op.UnusedZero w)
    (hlen : data.length = op.dataLength w) : (op.assemble w data).immBits = immField w := by
  have hdata : data.length = (immField w).toNat → BitVec.ofNat 16 data.length = immField w := by
    intro hlen
    rw [hlen, BitVec.ofNat_toNat, BitVec.setWidth_eq]
  cases op with
  | encode => exact hdata hlen
  | writeRaw => exact hdata hlen
  | write => exact hdata hlen
  | poll => exact h.2.symm
  | decRelease | tryRead | frameRead | isConnected | status => exact h.symm
  | decAppend =>
    change (byteOperand w).setWidth 16 = immField w
    have hupper : (immField w).extractLsb' 8 8 = 0#8 := h
    calc (byteOperand w).setWidth 16 = 0#8 ++ byteOperand w := BitVec.setWidth_eq_append (by decide)
      _ = immField w := by rw [← hupper]; exact upperByte_append_lowerByte (immField w)

/-- The data phase of the assembled command is that of the pair. -/
theorem data_assemble {op : Op} {w : Word} {data : List Byte} (hlen : data.length = op.dataLength w) :
    (op.assemble w data).data = data := by
  cases op with
  | encode | writeRaw | write => rfl
  | decAppend | decRelease | tryRead | frameRead | isConnected | status | poll =>
    exact (List.eq_nil_of_length_eq_zero hlen).symm

/-- A data phase as long as IMM says is one the port can carry (30_encoding.md R74). -/
theorem wellFormed_assemble {op : Op} {w : Word} {data : List Byte} (hlen : data.length = op.dataLength w) :
    (op.assemble w data).WellFormed := by
  have hle : data.length = (immField w).toNat → data.length ≤ maxDataLength :=
    fun h => h ▸ Nat.le_of_lt_succ (immField w).isLt
  cases op with
  | encode => exact (Instr.wellFormed_encode data).2 (hle hlen)
  | writeRaw => exact (Instr.wellFormed_writeRaw _ data).2 (hle hlen)
  | write => exact (Instr.wellFormed_write data).2 (hle hlen)
  | decAppend | decRelease | tryRead | frameRead | isConnected | status | poll => rfl

/-- A channel command's CH holds the channel that it names (30_encoding.md R72). -/
theorem toNat_chBits_of_namedChannel {i : Instr} {n : Nat} (h : Machine.namedChannel i = some n) :
    i.chBits.toNat = n := by
  cases i with
  | encode | poll | write => cases h
  | decAppend | decRelease | tryRead | frameRead | writeRaw | isConnected | status => cases h; rfl

/-! The statements. -/

/-- Settles O1: the word of the command selects the command's row, which assembles the command from its own fields. -/
theorem decodeOfEncode : Obligations.DecodeOfEncode := by
  intro i hwf
  exact (decode_eq_ok_iff _ _).2 ⟨i.op, selectOp_encode i, (Instr.dataLength_encode hwf).symm, assemble_encode i⟩

/-- Settles O2: the four fields of the word are those of the assembled command, the unused ones being 0. -/
theorem encodeOfDecode : Obligations.EncodeOfDecode := by
  intro c i hdec
  obtain ⟨op, hsel, hlen, rfl⟩ := (decode_eq_ok_iff c i).1 hdec
  obtain ⟨hop, hrsv, hunused⟩ := (selectOp_eq_some_iff c.word op).1 hsel
  have hword : (encode (op.assemble c.word c.data)).word = c.word := by
    apply word_eq_of_fields
    · rw [immField_encode, immBits_assemble hunused hlen]
    · rw [rsvField_encode, hrsv]
    · rw [chField_encode, chBits_assemble hunused c.data]
    · rw [opField_encode, op_assemble, hop]
  exact ⟨congrArg₂ Command.mk hword (data_assemble hlen), wellFormed_assemble hlen⟩

/-- Settles O4: a pair decodes when some mnemonic's row selects its word and its data phase has the row's length; the
opcode map lists the ten cases. -/
theorem decodeAcceptsLegal : Obligations.DecodeAcceptsLegal := by
  intro c
  have hdecodes : (∃ i, decode c = .ok i) ↔
      ∃ op : Op, (opField c.word = op.code ∧ rsvField c.word = 0 ∧ op.UnusedZero c.word) ∧
        c.data.length = op.dataLength c.word := by
    simp only [decode_eq_ok_iff, selectOp_eq_some_iff]
    exact ⟨fun ⟨_, op, hfields, hlen, _⟩ => ⟨op, hfields, hlen⟩, fun ⟨op, hfields, hlen⟩ => ⟨_, op, hfields, hlen, rfl⟩⟩
  rw [hdecodes]
  constructor
  · rintro ⟨op, ⟨hop, hrsv, hunused⟩, hlen⟩
    refine ⟨hrsv, ?_⟩
    have hnil : c.data.length = 0 → c.data = [] := List.eq_nil_of_length_eq_zero
    cases op with
    | encode => exact .inl ⟨hop, hunused, hlen⟩
    | decAppend => exact .inr (.inl ⟨hop, hunused, hnil hlen⟩)
    | decRelease => exact .inr (.inr (.inl ⟨.inl hop, hunused, hnil hlen⟩))
    | tryRead => exact .inr (.inr (.inl ⟨.inr (.inl hop), hunused, hnil hlen⟩))
    | frameRead => exact .inr (.inr (.inl ⟨.inr (.inr (.inl hop)), hunused, hnil hlen⟩))
    | isConnected => exact .inr (.inr (.inl ⟨.inr (.inr (.inr (.inl hop))), hunused, hnil hlen⟩))
    | status => exact .inr (.inr (.inl ⟨.inr (.inr (.inr (.inr hop))), hunused, hnil hlen⟩))
    | writeRaw => exact .inr (.inr (.inr (.inl ⟨hop, hlen⟩)))
    | poll => exact .inr (.inr (.inr (.inr (.inl ⟨hop, hunused.1, hunused.2, hnil hlen⟩))))
    | write => exact .inr (.inr (.inr (.inr (.inr ⟨hop, hunused, hlen⟩))))
  · rintro ⟨hrsv, ⟨hop, hch, hlen⟩ | ⟨hop, himm, hnil⟩ | ⟨hop, himm, hnil⟩ | ⟨hop, hlen⟩ | ⟨hop, hch, himm, hnil⟩ |
      ⟨hop, hch, hlen⟩⟩
    · exact ⟨.encode, ⟨hop, hrsv, hch⟩, hlen⟩
    · exact ⟨.decAppend, ⟨hop, hrsv, himm⟩, congrArg List.length hnil⟩
    · have hlen : c.data.length = 0 := congrArg List.length hnil
      rcases hop with hop | hop | hop | hop | hop
      · exact ⟨.decRelease, ⟨hop, hrsv, himm⟩, hlen⟩
      · exact ⟨.tryRead, ⟨hop, hrsv, himm⟩, hlen⟩
      · exact ⟨.frameRead, ⟨hop, hrsv, himm⟩, hlen⟩
      · exact ⟨.isConnected, ⟨hop, hrsv, himm⟩, hlen⟩
      · exact ⟨.status, ⟨hop, hrsv, himm⟩, hlen⟩
    · exact ⟨.writeRaw, ⟨hop, hrsv, trivial⟩, hlen⟩
    · exact ⟨.poll, ⟨hop, hrsv, hch, himm⟩, congrArg List.length hnil⟩
    · exact ⟨.write, ⟨hop, hrsv, hch⟩, hlen⟩

/-- Settles O5: the pair is the encoding of its command, so that its fields are the packed ones. -/
theorem decodedOperands : Obligations.DecodedOperands := by
  intro c i hdec
  obtain ⟨rfl, hwf⟩ := encodeOfDecode c i hdec
  refine ⟨?_, fun n hn => ?_, ?_, rfl, fun hop => ?_⟩
  · refine (opField_encode i).trans ?_
    cases i <;> rfl
  · exact (toNat_chBits_of_namedChannel hn).symm.trans (congrArg BitVec.toNat (chField_encode i).symm)
  · rintro ch b rfl
    exact (byteOperand_packWord b _ _).symm.trans (byteOperand_eq_extractLsb' _)
  · refine (Instr.dataLength_encode hwf).symm.trans ?_
    rcases hop with hop | hop | hop <;> rw [hop] <;> rfl

/-- Settles O3: two rows that select one word have its opcode, and no two rows have the same opcode. -/
theorem opcodeRowsDisjoint : Obligations.OpcodeRowsDisjoint := by
  intro w r q hr hq hrw hqw
  have hcode : r.op.code = q.op.code := (OpRow.op_of_selects hr hrw).1.symm.trans (OpRow.op_of_selects hq hqw).1
  exact opTable_op_injective r hr q hq (Op.code_injective _ _ hcode)

/-- Settles O6: each pair is the encoding of its command. -/
theorem decodeExampleWords : Obligations.DecodeExampleWords :=
  ⟨decodeOfEncode (.tryRead 1) rfl, decodeOfEncode (.decAppend 0 0x4F#8) rfl,
    decodeOfEncode (.encode [0x10#8, 0x00#8, 0x20#8]) rfl, decodeOfEncode (.writeRaw 1 [0xAA#8, 0xBB#8]) rfl⟩

end Sys2Proof

/-! PROOFS about frames on a channel (40_codec.md R104, R105, R121). A decoder that `Opens` a run at some payload bytes takes
the next marker and the run's data without completing anything; what is left between two runs opens the next one, and the
delimiter there completes the frame. The encoder's output is such a frame, run by run. -/

namespace Sys2Proof.Machine

open Sys2Proof

/-! One run of a frame, decoded. -/

/-- The zero that the runs of a payload leave out behind a run, none behind a full one (40_codec.md R104). -/
def owedZero (full : Bool) : List Byte := if full then [] else [delimiter]

/-- The decoder between two runs of a frame: `buf` holds the payload so far and `full` says of which kind the last run was
(40_codec.md R116, R117). -/
def Decoder.betweenRuns (buf : List Byte) (full : Bool) : Decoder := ⟨.marker, buf, 0, full, !full, false⟩

/-- The decoder takes a marker as that of a run whose data follow the payload bytes `buf`. -/
def Decoder.Opens (cap : Nat) (d : Decoder) (buf : List Byte) : Prop :=
  ∃ e : Decoder, e.buf = buf ∧ e.zp = false ∧ e.ready = false ∧
    ∀ m, m ≠ delimiter → d.step cap m = (e.startMarker m, .pending)

/-- At a frame boundary with no frame held, a run opens at the empty payload (40_codec.md R113). -/
theorem Decoder.opens_of_idle (cap : Nat) {d : Decoder} (h : d.Invariant) (hidle : d.phase = .idle)
    (hready : d.ready = false) : d.Opens cap [] := by
  refine ⟨d, h.idleEmpty hidle hready, (h.idle hidle).2.2, hready, fun m hm => ?_⟩
  simp [Decoder.step, hidle, Decoder.stepIdle, hm]

/-- Between two runs, the next run opens behind the owed zero, for which the buffer must have room (40_codec.md R115). -/
theorem Decoder.opens_betweenRuns {cap : Nat} {buf : List Byte} {full : Bool}
    (hroom : (buf ++ owedZero full).length ≤ cap) : (Decoder.betweenRuns buf full).Opens cap (buf ++ owedZero full) := by
  cases full with
  | true =>
    refine ⟨Decoder.betweenRuns buf true, by simp [owedZero, Decoder.betweenRuns], rfl, rfl, fun m hm => ?_⟩
    simp [Decoder.step, Decoder.betweenRuns, Decoder.stepMarker, hm]
  | false =>
    have hne : buf.length ≠ cap := by
      simp [owedZero] at hroom
      omega
    refine ⟨{ Decoder.betweenRuns buf false with buf := buf ++ [delimiter], zp := false }, rfl, rfl, rfl, fun m hm => ?_⟩
    simp [Decoder.step, Decoder.betweenRuns, Decoder.stepMarker, hm, hne]

/-- Inside a run, its remaining data bytes join the buffer and end the run (40_codec.md R117). -/
theorem Decoder.feed_runData {cap : Nat} {data : List Byte} (hdata : ∀ b ∈ data, b ≠ delimiter) (hne : data ≠ [])
    {buf : List Byte} (hroom : (buf ++ data).length ≤ cap) (full : Bool) :
    (⟨.run, buf, data.length, full, false, false⟩ : Decoder).feed cap data =
      (Decoder.betweenRuns (buf ++ data) full, List.replicate data.length .pending) := by
  induction data generalizing buf with
  | nil => exact absurd rfl hne
  | cons b bs ih =>
    obtain ⟨hb, hbs⟩ := List.forall_mem_cons.1 hdata
    have hspace : buf.length ≠ cap := by
      simp at hroom
      omega
    cases bs with
    | nil => simp [Decoder.step, Decoder.stepRun, hb, hspace, Decoder.betweenRuns]
    | cons b' bs =>
      have hstep : (⟨.run, buf, (b :: b' :: bs).length, full, false, false⟩ : Decoder).step cap b =
          (⟨.run, buf ++ [b], (b' :: bs).length, full, false, false⟩, .pending) := by
        simp [Decoder.step, Decoder.stepRun, hb, hspace]
      rw [Decoder.feed_cons, hstep, ih hbs (by simp) (by simpa using hroom)]
      simp [List.replicate_succ]

/-- The marker of a run holds its length + 1 (40_codec.md R102, R103). -/
theorem toNat_marker {run : List Byte} (h : RunData run) : (BitVec.ofNat 8 (run.length + 1)).toNat = run.length + 1 := by
  have hle : run.length ≤ 254 := h.1
  rw [BitVec.toNat_ofNat]
  omega

/-- A marker is never the delimiter. -/
theorem marker_ne_delimiter {run : List Byte} (h : RunData run) : BitVec.ofNat 8 (run.length + 1) ≠ delimiter := by
  intro heq
  have := (toNat_marker h).symm.trans (congrArg BitVec.toNat heq)
  simp [delimiter] at this

/-- The marker of a run is 0xFF when the run is full (40_codec.md R102). -/
theorem marker_beq_fullMarker {run : List Byte} (h : RunData run) :
    (BitVec.ofNat 8 (run.length + 1) == fullMarker) = (run.length == maxRun) := by
  rw [Bool.eq_iff_iff, beq_iff_eq, beq_iff_eq, ← BitVec.toNat_inj, toNat_marker h]
  exact Nat.succ_inj

/-- A whole run, fed to a decoder that opens one. -/
theorem Decoder.Opens.feed_markedRun {cap : Nat} {d : Decoder} {buf : List Byte} (h : d.Opens cap buf) {run : List Byte}
    (hrun : RunData run) (hroom : (buf ++ run).length ≤ cap) :
    d.feed cap (markedRun run) =
      (Decoder.betweenRuns (buf ++ run) (run.length == maxRun), List.replicate (markedRun run).length .pending) := by
  obtain ⟨e, rfl, hzp, hready, hstep⟩ := h
  rw [markedRun, Decoder.feed_cons, hstep _ (marker_ne_delimiter hrun)]
  cases run with
  | nil => simp [Decoder.startMarker, Decoder.betweenRuns, hready, fullMarker, maxRun]
  | cons b bs =>
    have hstart : e.startMarker (BitVec.ofNat 8 ((b :: bs).length + 1)) =
        ⟨.run, e.buf, (b :: bs).length, (b :: bs).length == maxRun, false, false⟩ := by
      rw [Decoder.startMarker, toNat_marker hrun, marker_beq_fullMarker hrun, hzp, hready]
      rfl
    rw [hstart, Decoder.feed_runData hrun.2 (by simp) hroom]
    rfl

/-- The delimiter behind a run completes the frame (40_codec.md R114). -/
theorem Decoder.step_betweenRuns_delimiter (cap : Nat) (buf : List Byte) (full : Bool) :
    (Decoder.betweenRuns buf full).step cap delimiter = (Decoder.holding buf, .complete) := by
  simp [Decoder.step, Decoder.betweenRuns, Decoder.stepMarker, Decoder.holding, Decoder.reset]

/-! A whole frame, decoded (40_codec.md R104). -/

theorem framePayload_cons_cons (run next : List Byte) (runs : List (List Byte)) :
    framePayload (run :: next :: runs) =
      run ++ owedZero (run.length == maxRun) ++ framePayload (next :: runs) := by
  simp [framePayload, owedZero]

/-- The bytes of a frame with at least one run, fed to a decoder that opens a run: PENDING up to the delimiter, which
completes the frame with its payload. -/
theorem Decoder.Opens.feed_frameBytes {cap : Nat} {d : Decoder} {buf : List Byte} (h : d.Opens cap buf)
    {run : List Byte} {runs : List (List Byte)} (hruns : ∀ r ∈ run :: runs, RunData r)
    (hroom : (buf ++ framePayload (run :: runs)).length ≤ cap) :
    d.feed cap (frameBytes (run :: runs)) =
      (Decoder.holding (buf ++ framePayload (run :: runs)),
        List.replicate ((frameBytes (run :: runs)).length - 1) .pending ++ [.complete]) := by
  induction runs generalizing d buf run with
  | nil =>
    rw [frameBytes, Decoder.feed_append, h.feed_markedRun (hruns run (by simp)) hroom]
    simp [frameBytes, framePayload, Decoder.step_betweenRuns_delimiter]
  | cons next runs ih =>
    obtain ⟨hrun, hrest⟩ := List.forall_mem_cons.1 hruns
    rw [framePayload_cons_cons] at hroom ⊢
    simp only [← List.append_assoc] at hroom ⊢
    have hbuf : (buf ++ run ++ owedZero (run.length == maxRun)).length ≤ cap := by
      rw [List.length_append] at hroom
      omega
    have hopens := Decoder.opens_betweenRuns hbuf
    have hhead : (buf ++ run).length ≤ cap := by
      rw [List.length_append] at hbuf
      omega
    rw [frameBytes, Decoder.feed_append, h.feed_markedRun hrun hhead, ih hopens hrest hroom]
    have hpos : 1 ≤ (frameBytes (next :: runs)).length := by simp [frameBytes, markedRun]
    simp only [Prod.mk.injEq, true_and]
    rw [← List.append_assoc, ← List.replicate_add, List.length_append, Nat.add_sub_assoc hpos]

/-- Every well-formed frame decodes to its payload at a frame boundary (40_codec.md R104, R123). -/
theorem Decoder.feed_of_isFrameOf {cap : Nat} {frame payload : List Byte} (hframe : IsFrameOf frame payload)
    (hroom : payload.length ≤ cap) {d : Decoder} (h : d.Invariant) (hidle : d.phase = .idle) (hready : d.ready = false) :
    d.feed cap frame =
      (Decoder.holding payload, List.replicate (frame.length - 1) .pending ++ [.complete]) := by
  obtain ⟨runs, hne, hruns, rfl, rfl⟩ := hframe
  cases runs with
  | nil => exact absurd rfl hne
  | cons run runs => exact (Decoder.opens_of_idle cap h hidle hready).feed_frameBytes hruns hroom

/-! The encoder writes a well-formed frame (40_codec.md R105). -/

/-- Behind a full run the encoder differs only at the end of the payload (40_codec.md R106). -/
theorem encodeFrom_full_of_ne_nil {payload : List Byte} (h : payload ≠ []) :
    encodeFrom [] true payload = encodeFrom [] false payload := by
  cases payload with
  | nil => exact absurd rfl h
  | cons b rest => rfl

/-- A run ahead of a frame that has runs. -/
theorem IsFrameOf.cons {frame payload run : List Byte} (h : IsFrameOf frame payload) (hrun : RunData run) :
    IsFrameOf (markedRun run ++ frame) (run ++ owedZero (run.length == maxRun) ++ payload) := by
  obtain ⟨runs, hne, hruns, rfl, rfl⟩ := h
  cases runs with
  | nil => exact absurd rfl hne
  | cons next runs =>
    exact ⟨run :: next :: runs, by simp, List.forall_mem_cons.2 ⟨hrun, hruns⟩, rfl, (framePayload_cons_cons _ _ _).symm⟩

/-- The frame of one run. -/
theorem isFrameOf_single {run : List Byte} (h : RunData run) : IsFrameOf (markedRun run ++ [delimiter]) run :=
  ⟨[run], by simp, by simpa using h, rfl, rfl⟩

/-- What the encoder still emits with an unfinished run is a frame of that run's data and the rest of the payload. -/
theorem encodeFrom_isFrameOf {run : List Byte} (hlen : run.length < maxRun) (hrun : ∀ b ∈ run, b ≠ delimiter)
    (payload : List Byte) : IsFrameOf (encodeFrom run false payload) (run ++ payload) := by
  induction payload generalizing run with
  | nil => simpa using isFrameOf_single ⟨hlen.le, hrun⟩
  | cons b rest ih =>
    have hempty : IsFrameOf (encodeFrom [] false rest) rest := ih (by decide) (by simp)
    rw [encodeFrom_cons]
    split
    · next hb =>
      have hnotFull : (run.length == maxRun) = false := by simpa using hlen.ne
      simpa [hnotFull, owedZero, hb] using hempty.cons ⟨hlen.le, hrun⟩
    · next hb =>
      have hrun' : ∀ x ∈ run ++ [b], x ≠ delimiter := by
        intro x hx
        rcases List.mem_append.1 hx with hx | hx
        · exact hrun x hx
        · rwa [List.mem_singleton.1 hx]
      split
      · next hfull =>
        have hmarked : fullMarker :: (run ++ [b]) = markedRun (run ++ [b]) := by rw [markedRun, hfull]; rfl
        rw [hmarked]
        by_cases hrest : rest = []
        · simpa [hrest] using isFrameOf_single ⟨hfull.le, hrun'⟩
        · rw [encodeFrom_full_of_ne_nil hrest]
          simpa [hfull, owedZero] using hempty.cons ⟨hfull.le, hrun'⟩
      · next hmore =>
        have hlen' : (run ++ [b]).length < maxRun := by
          rw [List.length_append, List.length_singleton] at hmore ⊢
          omega
        simpa using ih hlen' hrun'

/-- Encode(P) is a well-formed frame and stands for P. -/
theorem encodeFrame_isFrameOf (payload : List Byte) : IsFrameOf (encodeFrame payload) payload :=
  encodeFrom_isFrameOf (by decide) (by simp) payload

/-- The frame of a payload completes with its last byte, and not before (40_codec.md R121). -/
theorem completesAtLast_encodeFrame {cap : Nat} {payload : List Byte} (hroom : payload.length ≤ cap) {d : Decoder}
    (h : d.Invariant) (hidle : d.phase = .idle) (hready : d.ready = false) :
    CompletesAtLast cap d (encodeFrame payload) := by
  refine ⟨_, congrArg Prod.snd (Decoder.feed_of_isFrameOf (encodeFrame_isFrameOf payload) hroom h hidle hready), ?_⟩
  simp

end Sys2Proof.Machine

/-! PROOFS of the statements about issuing commands (30_encoding.md R70, R84). The pair that the caller forms from a
well-formed command is performed as that command; SEND is then a WRITE of the frame, and FEED feeds the bytes to the
channel's decoder. -/

namespace Sys2Proof.Machine

open Sys2Proof

/-! Issuing a command. -/

/-- Where the pair decodes, the port performs the command (30_encoding.md R78). -/
theorem issue_of_decode {cmd : Command} {i : Instr} (h : decode cmd = .ok i) (s : State) : issue cmd s = exec i s := by
  simp [issue, h]

/-- A command issued as its encoding is performed. -/
theorem issueInstr_of_wellFormed {i : Instr} (h : i.WellFormed) (s : State) : issueInstr i s = exec i s :=
  issue_of_decode (decodeOfEncode i h) s

/-- A pending command is taken off the queue and issued (20_memory.md R61). -/
theorem step_of_command {s : State} {cmd : Command} {rest : List Input} (h : s.inputs = .command cmd :: rest) :
    step s = issue cmd { s with inputs := rest } := by
  simp [step, State.nextInput, State.taken, h]

@[simp] theorem thenDo_next (s : State) (k : State → Host.Outcome State Fault Refusal) : thenDo (.next s) k = k s := rfl

/-! What the caller sees of the last response (30_encoding.md R79). -/

@[simp] theorem State.lastResponse_answer (s : State) (v0 v1 : Word) (data : List Byte) :
    (s.answer v0 v1 data).lastResponse = some (Response.performed v0 v1 data) := by
  simp [State.lastResponse]

@[simp] theorem State.lastData_answer (s : State) (v0 v1 : Word) (data : List Byte) :
    (s.answer v0 v1 data).lastData = data := by
  simp [State.lastData, Response.performed]

@[simp] theorem State.lastV0_answer (s : State) (v0 v1 : Word) (data : List Byte) : (s.answer v0 v1 data).lastV0 = v0 := by
  simp [State.lastV0, Response.performed]

/-! The commands that SEND issues. -/

/-- ENCODE of an allowed payload answers its frame (40_codec.md R108). -/
theorem exec_encode_of_le {s : State} {payload : List Byte} (h : payload.length ≤ s.cfg.nMax) :
    exec (.encode payload) s =
      .next (s.answer (lengthWord (encodeFrame payload)) 0 (encodeFrame payload)) := by
  change Host.Outcome.next (s.onPayload payload _) = _
  rcases s.onPayload_cases payload (s.answer (lengthWord (encodeFrame payload)) 0 (encodeFrame payload)) with
    ⟨hlong, -⟩ | ⟨-, heq⟩
  · omega
  · rw [heq]

/-- SEND of an allowed payload is WRITE of its frame, behind the response to ENCODE (30_encoding.md R84). -/
theorem runSend_eq_exec_write {s : State} {payload : List Byte} (hmax : payload.length ≤ s.cfg.nMax)
    (hdata : payload.length ≤ maxDataLength) (hframe : (encodeFrame payload).length ≤ maxDataLength) :
    runSend payload s =
      exec (.write (encodeFrame payload))
        (s.answer (lengthWord (encodeFrame payload)) 0 (encodeFrame payload)) := by
  rw [runSend, issueInstr_of_wellFormed ((Instr.wellFormed_encode payload).2 hdata), exec_encode_of_le hmax, thenDo_next,
    State.lastData_answer, issueInstr_of_wellFormed ((Instr.wellFormed_write _).2 hframe)]

/-- WRITE makes one adapter write on each channel (43_mux.md R215). -/
theorem exec_write_chan? (s : State) (bs : List Byte) :
    ∃ t, exec (.write bs) s = .next t ∧ ∀ k c, s.chan? k = some c → t.chan? k = some (c.adapterWrite bs) := by
  refine ⟨_, rfl, fun k c hc => ?_⟩
  have hget : s.chans[k]? = some c := hc
  simp [State.chan?, hget]

/-! The commands that FEED issues (30_encoding.md R84). -/

theorem DecodeCode.value_eq_complete_iff (code : DecodeCode) : code.value = DecodeCode.complete.value ↔ code = .complete := by
  cases code <;> decide

/-- DEC_APPEND on a channel that holds no frame is one decoder step (40_codec.md R119). -/
theorem exec_decAppend_of_not_ready {ch : ChannelIx} {s : State} {c : Channel} (hc : s.chan? ch.val = some c)
    (hready : c.dec.ready = false) (b : Byte) :
    exec (.decAppend ch b) s =
      .next ((s.setChan ch.val { c with dec := (c.dec.step (decCap s.cfg) b).1 }).answer
        (c.dec.step (decCap s.cfg) b).2.value (c.dec.step (decCap s.cfg) b).1.lenWord []) := by
  change Host.Outcome.next (s.onChannel ch _) = _
  rw [State.onChannel_of_some hc]
  simp [hready]

/-- One turn of FEED: it ends behind a byte that completes a frame. -/
theorem runFeed_cons {ch : ChannelIx} {s : State} {c : Channel} (hc : s.chan? ch.val = some c)
    (hready : c.dec.ready = false) (b : Byte) (bs : List Byte) :
    ∃ r, runFeed ch (b :: bs) s =
      if (c.dec.step (decCap s.cfg) b).2 = .complete then
        .next ((s.setChan ch.val { c with dec := (c.dec.step (decCap s.cfg) b).1 }).respond r)
      else runFeed ch bs ((s.setChan ch.val { c with dec := (c.dec.step (decCap s.cfg) b).1 }).respond r) := by
  refine ⟨Response.performed (c.dec.step (decCap s.cfg) b).2.value (c.dec.step (decCap s.cfg) b).1.lenWord [], ?_⟩
  rw [runFeed, issueInstr_of_wellFormed rfl, exec_decAppend_of_not_ready hc hready, thenDo_next, State.lastV0_answer]
  simp only [DecodeCode.value_eq_complete_iff]
  rfl

/-- Either the first byte completes the frame and is the last, or it completes none and the rest does. -/
theorem CompletesAtLast.cons_cases {cap : Nat} {d : Decoder} {b : Byte} {bs : List Byte}
    (h : CompletesAtLast cap d (b :: bs)) :
    ((d.step cap b).2 = .complete ∧ bs = []) ∨
      ((d.step cap b).2 ≠ .complete ∧ CompletesAtLast cap (d.step cap b).1 bs) := by
  obtain ⟨codes, hcodes, hfirst⟩ := h
  rw [Decoder.feed_cons] at hcodes
  cases codes with
  | nil =>
    obtain ⟨hb, hbs⟩ := List.cons.inj hcodes
    cases bs with
    | nil => exact .inl ⟨hb, rfl⟩
    | cons b' bs => cases hbs
  | cons code codes =>
    obtain ⟨rfl, hbs⟩ := List.cons.inj hcodes
    rw [List.mem_cons, not_or] at hfirst
    exact .inr ⟨Ne.symm hfirst.1, codes, hbs, hfirst.2⟩

/-- FEED of bytes that complete a frame with the last one is feeding them to the channel's decoder, with one response for
each byte and nothing else. -/
theorem runFeed_of_completes {ch : ChannelIx} {bs : List Byte} {s : State} {c : Channel} (hc : s.chan? ch.val = some c)
    (hready : c.dec.ready = false) (h : CompletesAtLast (decCap s.cfg) c.dec bs) :
    ∃ rs : List Response, rs.length = bs.length ∧
      runFeed ch bs s =
        .next { s with
          chans := s.chans.set ch.val { c with dec := (c.dec.feed (decCap s.cfg) bs).1 }
          rsp := s.rsp ++ rs } := by
  induction bs generalizing s c with
  | nil =>
    obtain ⟨codes, hcodes, -⟩ := h
    simp at hcodes
  | cons b bs ih =>
    obtain ⟨r, hrun⟩ := runFeed_cons hc hready b bs
    rw [hrun, Decoder.feed_cons]
    rcases h.cons_cases with ⟨hlast, rfl⟩ | ⟨hmore, hrest⟩
    · rw [if_pos hlast]
      exact ⟨[r], rfl, rfl⟩
    · rw [if_neg hmore]
      have hready' : (c.dec.step (decCap s.cfg) b).1.ready = false :=
        Bool.eq_false_iff.2 fun hr => hmore ((Decoder.step_ready hready _ b).1 hr)
      have hc' := s.chan?_setChan_self { c with dec := (c.dec.step (decCap s.cfg) b).1 }
        ((s.chan?_isSome_iff _).1 ⟨c, hc⟩)
      obtain ⟨rs, hlen, heq⟩ := ih (s := (s.setChan ch.val _).respond r) hc' hready' hrest
      refine ⟨r :: rs, congrArg (· + 1) hlen, heq.trans ?_⟩
      simp [State.respond, State.setChan]

/-! The statements. -/

/-- Settles O8: the queue's first entry is issued, and issuing a pair that decodes is performing its command. -/
theorem stepRunsDecodedCommand : Obligations.StepRunsDecodedCommand := by
  intro s cmd rest hinputs
  exact ⟨step_of_command hinputs, fun i hdec => (step_of_command hinputs).trans (issue_of_decode hdec _)⟩

/-- Settles O58: SEND is a WRITE of the frame, an adapter write on every channel. -/
theorem sendBroadcastsFrame : Obligations.SendBroadcastsFrame := by
  intro payload s hmax hdata hframe
  rw [runSend_eq_exec_write hmax hdata hframe]
  obtain ⟨t, ht, hchans⟩ :=
    exec_write_chan? (s.answer (lengthWord (encodeFrame payload)) 0 (encodeFrame payload)) (encodeFrame payload)
  refine ⟨t, ht, fun k c hc => ?_⟩
  rw [hchans k c hc, Channel.adapterWrite_eq]

/-- Settles O59: the frame of the payload completes with its last byte, and feeding it leaves the payload as the view. -/
theorem feedHoldsPayload : Obligations.FeedHoldsPayload := by
  intro ch payload s c hc hinv hidle hready hmax
  have hfeed := Decoder.feed_of_isFrameOf (encodeFrame_isFrameOf payload) (cap := decCap s.cfg) hmax hinv hidle hready
  obtain ⟨rs, hlen, hrun⟩ := runFeed_of_completes hc hready (completesAtLast_encodeFrame hmax hinv hidle hready)
  rw [hfeed] at hrun
  exact ⟨_, hrun, rfl, rfl, rfl, rfl, by simp [hlen]⟩

end Sys2Proof.Machine

/-! PROOFS of the statements about the frame codec (40_codec.md). The encoder is read run by run, once, as the relation
`Encodes`; the shorter boundary form and the length of a frame are inductions over it. A frame that does not fit `Discards`:
it overflows in some run, and HUNT eats the rest up to the delimiter. -/

namespace Sys2Proof.Machine

open Sys2Proof

/-! The decoder step, phase by phase (40_codec.md R110 to R117). -/

/-- The marker 0x01 opens an empty run, which is complete at once and owes its zero (40_codec.md R110). -/
theorem Decoder.startMarker_one (d : Decoder) :
    d.startMarker 0x01#8 = { d with rem := 0, full := false, zp := true, phase := .marker } := by
  simp [Decoder.startMarker, fullMarker]

/-- A marker above 0x01 opens a run of at least one data byte (40_codec.md R110). -/
theorem Decoder.startMarker_of_two_le (d : Decoder) {m : Byte} (hm : 2 ≤ m.toNat) :
    d.startMarker m = { d with rem := m.toNat - 1, full := decide (m = 0xFF#8), phase := .run } := by
  rw [Decoder.startMarker, if_neg (by omega)]
  rfl

/-- A marker is 0x01 or opens a run of at least one data byte. -/
theorem two_le_toNat_of_ne {m : Byte} (hzero : m ≠ delimiter) (hone : m ≠ 0x01#8) : 2 ≤ m.toNat := by
  have h0 : m.toNat ≠ 0 := fun h => hzero (BitVec.eq_of_toNat_eq h)
  have h1 : m.toNat ≠ 1 := fun h => hone (BitVec.eq_of_toNat_eq h)
  omega

/-- In IDLE a nonzero byte is the first marker of a frame (40_codec.md R113). -/
theorem Decoder.step_idle_of_ne {d : Decoder} (hphase : d.phase = .idle) (cap : Nat) {b : Byte} (hb : b ≠ delimiter) :
    d.step cap b = (d.startMarker b, .pending) := by
  simp [Decoder.step, hphase, Decoder.stepIdle, hb]

/-- In MARKER with no zero owed, a nonzero byte opens the next run (40_codec.md R115). -/
theorem Decoder.step_marker_of_not_zp {d : Decoder} (hphase : d.phase = .marker) (hzp : d.zp = false) (cap : Nat)
    {b : Byte} (hb : b ≠ delimiter) : d.step cap b = (d.startMarker b, .pending) := by
  simp [Decoder.step, hphase, Decoder.stepMarker, hb, hzp]

/-- In MARKER with a zero owed and room for it, a nonzero byte opens the next run behind the zero (40_codec.md R115). -/
theorem Decoder.step_marker_of_zp {d : Decoder} (hphase : d.phase = .marker) (hzp : d.zp = true) {cap : Nat}
    (hroom : d.buf.length ≠ cap) {b : Byte} (hb : b ≠ delimiter) :
    d.step cap b = (({ d with buf := d.buf ++ [delimiter], zp := false } : Decoder).startMarker b, .pending) := by
  simp [Decoder.step, hphase, Decoder.stepMarker, hb, hzp, hroom]

/-- In MARKER with a zero owed and no room for it, a nonzero byte overflows (40_codec.md R115). -/
theorem Decoder.step_marker_overflow {d : Decoder} (hphase : d.phase = .marker) (hzp : d.zp = true) {cap : Nat}
    (hfull : d.buf.length = cap) {b : Byte} (hb : b ≠ delimiter) : d.step cap b = (d.discard .hunt, .malformed) := by
  simp [Decoder.step, hphase, Decoder.stepMarker, hb, hzp, hfull]

/-- In RUN with no room left, a data byte overflows (40_codec.md R117). -/
theorem Decoder.step_run_overflow {d : Decoder} (hphase : d.phase = .run) {cap : Nat} (hfull : d.buf.length = cap)
    {b : Byte} (hb : b ≠ delimiter) : d.step cap b = (d.discard .hunt, .malformed) := by
  simp [Decoder.step, hphase, Decoder.stepRun, hb, hfull]

/-- In RUN the last data byte is appended and completes the run (40_codec.md R117). -/
theorem Decoder.step_run_last {d : Decoder} (hphase : d.phase = .run) {cap : Nat} (hroom : d.buf.length ≠ cap)
    (hrem : d.rem = 1) {b : Byte} (hb : b ≠ delimiter) :
    d.step cap b = ({ d with buf := d.buf ++ [b], rem := 0, zp := !d.full, phase := .marker }, .pending) := by
  simp [Decoder.step, hphase, Decoder.stepRun, hb, hroom, hrem]

/-- In RUN any data byte before the last is appended (40_codec.md R117). -/
theorem Decoder.step_run_more {d : Decoder} (hphase : d.phase = .run) {cap : Nat} (hroom : d.buf.length ≠ cap)
    (hrem : 2 ≤ d.rem) {b : Byte} (hb : b ≠ delimiter) :
    d.step cap b = ({ d with buf := d.buf ++ [b], rem := d.rem - 1 }, .pending) := by
  have hmore : d.rem - 1 ≠ 0 := by omega
  simp [Decoder.step, hphase, Decoder.stepRun, hb, hroom, hmore]

/-- In HUNT every byte but the delimiter is dropped (40_codec.md R112). -/
theorem Decoder.step_hunt_of_ne {d : Decoder} (hphase : d.phase = .hunt) (cap : Nat) {b : Byte} (hb : b ≠ delimiter) :
    d.step cap b = (d, .pending) := by
  simp [Decoder.step, hphase, Decoder.stepHunt, hb]

/-- In HUNT the delimiter is a frame boundary (40_codec.md R112). -/
theorem Decoder.step_hunt_delimiter {d : Decoder} (hphase : d.phase = .hunt) (cap : Nat) :
    d.step cap delimiter = ({ d with phase := .idle }, .pending) := by
  simp [Decoder.step, hphase, Decoder.stepHunt]

/-- The delimiter leaves every phase at a frame boundary (40_codec.md R112 to R114, R116). -/
theorem Decoder.step_delimiter_phase (cap : Nat) (d : Decoder) : (d.step cap delimiter).1.phase = .idle := by
  cases hphase : d.phase with
  | hunt => rw [Decoder.step_hunt_delimiter hphase]
  | idle => simp [Decoder.step, hphase, Decoder.stepIdle]
  | marker => simp [Decoder.step, hphase, Decoder.stepMarker]
  | run => simp [Decoder.step, hphase, Decoder.stepRun]

/-- Settles O23: the two cases of HUNT. -/
theorem huntStep : Obligations.HuntStep := by
  intro cap d hphase
  exact ⟨Decoder.step_hunt_delimiter hphase cap, fun b hb => Decoder.step_hunt_of_ne hphase cap hb⟩

/-- Settles O24: the delimiter is ignored, and any other byte is a marker, 0x01 or larger. -/
theorem idleStep : Obligations.IdleStep := by
  intro cap d hphase
  refine ⟨?_, ?_, fun b hb => ?_⟩
  · simp [Decoder.step, hphase, Decoder.stepIdle, delimiter]
  · rw [Decoder.step_idle_of_ne hphase cap (by decide), Decoder.startMarker_one]
  · have hne : b ≠ delimiter := by
      rintro rfl
      exact absurd hb (by decide)
    rw [Decoder.step_idle_of_ne hphase cap hne, Decoder.startMarker_of_two_le d hb]

/-- Settles O25: the delimiter completes the frame; a marker, 0x01 or larger, comes behind the zero that is owed. -/
theorem markerStep : Obligations.MarkerStep := by
  intro cap d hphase
  refine ⟨by simp [Decoder.step, hphase, Decoder.stepMarker, delimiter], fun b hb => ⟨?_, ?_, ?_, ?_, ?_⟩⟩
  · intro hzp hfull
    exact Decoder.step_marker_overflow hphase hzp hfull hb
  · rintro hzp hroom rfl
    rw [Decoder.step_marker_of_zp hphase hzp hroom hb, Decoder.startMarker_one]
    rfl
  · intro hzp hroom hone
    rw [Decoder.step_marker_of_zp hphase hzp hroom hb, Decoder.startMarker_of_two_le _ (two_le_toNat_of_ne hb hone)]
    rfl
  · rintro hzp rfl
    rw [Decoder.step_marker_of_not_zp hphase hzp cap hb, Decoder.startMarker_one]
  · intro hzp hone
    rw [Decoder.step_marker_of_not_zp hphase hzp cap hb, Decoder.startMarker_of_two_le _ (two_le_toNat_of_ne hb hone)]

/-- Settles O26: the delimiter discards the frame; a data byte overflows, ends the run or goes on with it. -/
theorem runStep : Obligations.RunStep := by
  intro cap d hphase _
  refine ⟨by simp [Decoder.step, hphase, Decoder.stepRun, Decoder.discard, delimiter], fun b hb => ⟨?_, ?_, ?_⟩⟩
  · intro hfull
    exact Decoder.step_run_overflow hphase hfull hb
  · intro hroom hrem
    exact Decoder.step_run_last hphase hroom hrem hb
  · intro hroom hrem
    exact Decoder.step_run_more hphase hroom hrem hb

/-! The round trips, and the bytes of a frame. -/

/-- Settles O28: every frame of the grammar opens at the empty payload, run by run. -/
theorem wellFormedFrameDecodes : Obligations.WellFormedFrameDecodes := by
  intro cap frame payload d hframe hroom hinv hidle hready
  exact Decoder.feed_of_isFrameOf hframe hroom hinv hidle hready

/-- Settles O27: Encode(P) is a frame of the grammar that stands for P. -/
theorem frameRoundTrip : Obligations.FrameRoundTrip := by
  intro cap payload d hroom hinv hidle hready
  exact Decoder.feed_of_isFrameOf (encodeFrame_isFrameOf payload) hroom hinv hidle hready

/-- A frame is its marked runs, then the delimiter (40_codec.md R104). -/
theorem frameBytes_eq_flatMap (runs : List (List Byte)) : frameBytes runs = runs.flatMap markedRun ++ [delimiter] := by
  induction runs with
  | nil => rfl
  | cons run runs ih => rw [frameBytes, ih, List.flatMap_cons, List.append_assoc]

/-- No marker and no data byte of a run is the delimiter (40_codec.md R100). -/
theorem ne_delimiter_of_mem_markedRun {run : List Byte} (h : RunData run) : ∀ b ∈ markedRun run, b ≠ delimiter :=
  List.forall_mem_cons.2 ⟨marker_ne_delimiter h, h.2⟩

/-- The bytes ahead of a frame's delimiter hold no delimiter (40_codec.md R100). -/
theorem ne_delimiter_of_mem_flatMap {runs : List (List Byte)} (hruns : ∀ run ∈ runs, RunData run) :
    ∀ b ∈ runs.flatMap markedRun, b ≠ delimiter := by
  intro b hb
  obtain ⟨run, hrun, hmem⟩ := List.mem_flatMap.1 hb
  exact ne_delimiter_of_mem_markedRun (hruns run hrun) b hmem

/-- Settles O30: the body of a frame is its marked runs. -/
theorem frameEndsWithOneDelimiter : Obligations.FrameEndsWithOneDelimiter := by
  refine ⟨rfl, ?_⟩
  rintro _ _ ⟨runs, -, hruns, rfl, -⟩
  exact ⟨_, frameBytes_eq_flatMap runs, ne_delimiter_of_mem_flatMap hruns⟩

/-! The encoder, run by run (40_codec.md R105). -/

/-- `frame` encodes `payload` as Encode does: run by run, no empty run behind a full one at the end (40_codec.md R105, R106). -/
inductive Encodes : List Byte → List Byte → Prop where
  | last {run : List Byte} (hrun : RunData run) : Encodes (markedRun run ++ [delimiter]) run
  | cons {run frame payload : List Byte} (hrun : RunData run) (hshort : run.length = maxRun → payload ≠ [])
      (h : Encodes frame payload) :
      Encodes (markedRun run ++ frame) (run ++ owedZero (run.length == maxRun) ++ payload)

/-- What the encoder still emits with an unfinished run encodes that run's data and the rest of the payload. -/
theorem encodeFrom_encodes {run : List Byte} (hlen : run.length < maxRun) (hrun : ∀ b ∈ run, b ≠ delimiter)
    (payload : List Byte) : Encodes (encodeFrom run false payload) (run ++ payload) := by
  induction payload generalizing run with
  | nil => simpa using Encodes.last ⟨hlen.le, hrun⟩
  | cons b rest ih =>
    have hempty : Encodes (encodeFrom [] false rest) rest := ih (by decide) (by simp)
    rw [encodeFrom_cons]
    split
    · next hb =>
      have hnotFull : (run.length == maxRun) = false := by simpa using hlen.ne
      simpa [hnotFull, owedZero, hb] using Encodes.cons ⟨hlen.le, hrun⟩ (fun h => absurd h hlen.ne) hempty
    · next hb =>
      have hrun' : ∀ x ∈ run ++ [b], x ≠ delimiter := by
        simpa [or_imp, forall_and, hb] using hrun
      split
      · next hfull =>
        have hmarked : fullMarker :: (run ++ [b]) = markedRun (run ++ [b]) := by rw [markedRun, hfull]; rfl
        rw [hmarked]
        by_cases hrest : rest = []
        · simpa [hrest] using Encodes.last ⟨hfull.le, hrun'⟩
        · rw [encodeFrom_full_of_ne_nil hrest]
          simpa [hfull, owedZero] using Encodes.cons ⟨hfull.le, hrun'⟩ (fun _ => hrest) hempty
      · next hmore =>
        have hlen' : (run ++ [b]).length < maxRun := by
          rw [List.length_append, List.length_singleton] at hmore ⊢
          omega
        simpa using ih hlen' hrun'

theorem encodeFrame_encodes (payload : List Byte) : Encodes (encodeFrame payload) payload :=
  encodeFrom_encodes (by decide) (by simp) payload

/-- The shorter boundary form: no empty run follows a full one at the end (40_codec.md R106). -/
def ShortForm (runs : List (List Byte)) : Prop :=
  ∀ (before : List (List Byte)) (full : List Byte), full.length = 254 → runs ≠ before ++ [full, []]

theorem shortForm_singleton (run : List Byte) : ShortForm [run] := by
  intro before full _ h
  have := congrArg List.length h
  simp at this

/-- A run ahead keeps the shorter form unless it is full and nothing but an empty run follows. -/
theorem ShortForm.cons {run : List Byte} {runs : List (List Byte)} (h : ShortForm runs)
    (hrun : run.length = maxRun → runs ≠ [[]]) : ShortForm (run :: runs) := by
  intro before full hfull heq
  cases before with
  | nil =>
    obtain ⟨rfl, hruns⟩ := List.cons.inj heq
    exact hrun hfull hruns
  | cons _ before => exact h before full hfull (List.cons.inj heq).2

/-- What Encode does is a frame of the grammar in the shorter form. -/
theorem Encodes.exists_shortForm {frame payload : List Byte} (h : Encodes frame payload) :
    ∃ runs : List (List Byte), runs ≠ [] ∧ (∀ run ∈ runs, RunData run) ∧ frame = frameBytes runs ∧
      payload = framePayload runs ∧ ShortForm runs := by
  induction h with
  | @last run hrun => exact ⟨[run], by simp, by simpa using hrun, rfl, rfl, shortForm_singleton run⟩
  | @cons run frame payload hrun hshort _ ih =>
    obtain ⟨runs, hne, hruns, rfl, rfl, hform⟩ := ih
    obtain ⟨next, runs, rfl⟩ := List.exists_cons_of_ne_nil hne
    refine ⟨run :: next :: runs, by simp, List.forall_mem_cons.2 ⟨hrun, hruns⟩, rfl,
      (framePayload_cons_cons _ _ _).symm, hform.cons fun hfull heq => hshort hfull ?_⟩
    rw [heq, framePayload]

/-! The corner cases of the encoder (40_codec.md R106). -/

/-- A zero in the payload closes the run; what follows is encoded afresh. -/
theorem encodeFrame_append_delimiter (front : List Byte) :
    ∃ out, ∀ rest, encodeFrame (front ++ [delimiter] ++ rest) = out ++ encodeFrame rest := by
  suffices h : ∀ run endedFull, ∃ out, ∀ rest,
      encodeFrom run endedFull (front ++ [delimiter] ++ rest) = out ++ encodeFrame rest from h [] false
  induction front with
  | nil => exact fun run endedFull => ⟨markedRun run, fun rest => rfl⟩
  | cons b front ih =>
    intro run endedFull
    simp only [List.cons_append, encodeFrom_cons]
    split
    · obtain ⟨out, hout⟩ := ih [] false
      exact ⟨markedRun run ++ out, fun rest => by rw [hout, List.append_assoc]⟩
    · split
      · obtain ⟨out, hout⟩ := ih [] true
        exact ⟨fullMarker :: (run ++ [b]) ++ out, fun rest => by rw [hout]; simp⟩
      · exact ih (run ++ [b]) false

/-- Nonzero bytes that do not fill the run only join it. -/
theorem encodeFrom_append_of_lt {run data : List Byte} (hdata : ∀ b ∈ data, b ≠ delimiter)
    (hlen : (run ++ data).length < maxRun) (rest : List Byte) :
    encodeFrom run false (data ++ rest) = encodeFrom (run ++ data) false rest := by
  induction data generalizing run with
  | nil => simp
  | cons b data ih =>
    obtain ⟨hb, hdata⟩ := List.forall_mem_cons.1 hdata
    have hmore : (run ++ [b]).length ≠ maxRun := by
      simp at hlen ⊢
      omega
    rw [List.cons_append, encodeFrom_cons, if_neg hb, if_neg hmore, ih hdata (by simpa using hlen)]
    simp

/-- A payload of one full run is that run, marked, and the delimiter (40_codec.md R106). -/
theorem encodeFrame_full {full : List Byte} (hlen : full.length = maxRun) (hne : ∀ b ∈ full, b ≠ delimiter) :
    encodeFrame full = fullMarker :: full ++ [delimiter] := by
  rcases full.eq_nil_or_concat' with rfl | ⟨init, b, rfl⟩
  · cases hlen
  · have hinit : init.length < maxRun := by
      simp at hlen
      omega
    have hdata : ∀ x ∈ init, x ≠ delimiter := fun x hx => hne x (List.mem_append_left _ hx)
    rw [encodeFrame, encodeFrom_append_of_lt (run := []) hdata hinit, List.nil_append, encodeFrom_cons,
      if_neg (hne b (by simp)), if_pos hlen]
    rfl

/-- Each zero at the front of a payload is an empty run of its own. -/
theorem encodeFrame_replicate (n : Nat) :
    encodeFrame (List.replicate n 0x00#8) = List.replicate (n + 1) 0x01#8 ++ [0x00#8] := by
  induction n with
  | zero => rfl
  | succ n ih => exact congrArg (0x01#8 :: ·) ih

/-- Settles O29: the runs of `Encodes`, and the corner cases by the encoder's equations. -/
theorem encodeIsWellFormedFrame : Obligations.EncodeIsWellFormedFrame := by
  refine ⟨fun payload => (encodeFrame_encodes payload).exists_shortForm, fun front full hlen hne => ?_, rfl,
    encodeFrame_replicate, fun front => ?_⟩
  · have hfull : encodeFrame full = 0xFF#8 :: full ++ [0x00#8] := encodeFrame_full hlen hne
    obtain ⟨out, hout⟩ := encodeFrame_append_delimiter front
    exact ⟨hfull, out, by rw [List.append_assoc out, ← hfull]; exact hout full⟩
  · obtain ⟨out, hout⟩ := encodeFrame_append_delimiter front
    exact ⟨out, by rw [← List.append_nil (front ++ _)]; exact hout []⟩

/-! The length of a frame (40_codec.md R107). -/

@[simp] theorem length_markedRun (run : List Byte) : (markedRun run).length = run.length + 1 := rfl

/-- Each full run takes a marker for 254 bytes, and each other run stands for a zero that its marker replaces. -/
theorem Encodes.length_le {frame payload : List Byte} (h : Encodes frame payload) :
    frame.length ≤ frameBound payload.length := by
  unfold frameBound
  induction h with
  | last hrun => simp
  | @cons run frame payload hrun hshort _ ih =>
    by_cases hfull : run.length = maxRun
    · have hpos := List.length_pos_iff.2 (hshort hfull)
      simp [hfull, owedZero, maxRun] at ih ⊢
      omega
    · simp [hfull, owedZero] at ih ⊢
      omega

/-- Without zeros every run but the last is full. -/
theorem Encodes.length_eq {frame payload : List Byte} (h : Encodes frame payload) (hne : ∀ b ∈ payload, b ≠ delimiter) :
    frame.length = frameBound payload.length := by
  unfold frameBound
  induction h with
  | @last run hrun =>
    have hle : run.length ≤ 254 := hrun.1
    simp
    omega
  | @cons run frame payload hrun hshort _ ih =>
    by_cases hfull : run.length = maxRun
    · have hpos := List.length_pos_iff.2 (hshort hfull)
      have := ih fun b hb => hne b (by simp [hb])
      simp [hfull, owedZero, maxRun] at this ⊢
      omega
    · exact absurd rfl (hne delimiter (by simp [hfull, owedZero]))

theorem frameBound_mono {m n : Nat} (h : m ≤ n) : frameBound m ≤ frameBound n := by
  unfold frameBound
  omega

/-- Settles O31: the bound and the equality run by run, the zeros by their frame. -/
theorem frameLength : Obligations.FrameLength := by
  refine ⟨fun payload => (encodeFrame_encodes payload).length_le, fun payload => (encodeFrame_encodes payload).length_eq,
    fun n => ?_, fun cfg payload hle => (encodeFrame_encodes payload).length_le.trans (frameBound_mono hle)⟩
  simp [encodeFrame_replicate]

/-! A frame that does not fit (40_codec.md R112, R115, R117). -/

/-- Fed to the decoder, the bytes complete nothing and leave it as after reset. -/
def Decoder.Discards (cap : Nat) (d : Decoder) (bs : List Byte) : Prop :=
  (d.feed cap bs).1 = Decoder.reset ∧ DecodeCode.complete ∉ (d.feed cap bs).2

theorem Decoder.Discards.of_step {cap : Nat} {d e : Decoder} {b : Byte} {bs : List Byte} {code : DecodeCode}
    (hstep : d.step cap b = (e, code)) (hcode : DecodeCode.complete ≠ code) (h : e.Discards cap bs) :
    d.Discards cap (b :: bs) := by
  rw [Decoder.Discards, Decoder.feed_cons, hstep]
  exact ⟨h.1, List.not_mem_cons_of_ne_of_not_mem hcode h.2⟩

theorem Decoder.Discards.of_feed {cap : Nat} {d e : Decoder} {xs ys : List Byte} {codes : List DecodeCode}
    (hfeed : d.feed cap xs = (e, codes)) (hcodes : DecodeCode.complete ∉ codes) (h : e.Discards cap ys) :
    d.Discards cap (xs ++ ys) := by
  rw [Decoder.Discards, Decoder.feed_append, hfeed]
  exact ⟨h.1, List.not_mem_append hcodes h.2⟩

/-- After an overflow, HUNT drops the rest of the frame (40_codec.md R112). -/
theorem Decoder.discards_of_hunt {cap : Nat} {d : Decoder} (hready : d.ready = false) {body : List Byte}
    (hbody : ∀ b ∈ body, b ≠ delimiter) : (d.discard .hunt).Discards cap (body ++ [delimiter]) := by
  induction body with
  | nil =>
    exact .of_step (Decoder.step_hunt_delimiter rfl cap) (by decide)
      ⟨by simp [Decoder.discard, Decoder.reset, hready], by simp⟩
  | cons b body ih =>
    obtain ⟨hb, hbody⟩ := List.forall_mem_cons.1 hbody
    exact .of_step (Decoder.step_hunt_of_ne rfl cap hb) (by decide) (ih hbody)

/-- A run whose data do not fit overflows (40_codec.md R117). -/
theorem Decoder.discards_runData {cap : Nat} {data body : List Byte} (hdata : ∀ b ∈ data, b ≠ delimiter)
    (hbody : ∀ b ∈ body, b ≠ delimiter) {buf : List Byte} (hbuf : buf.length ≤ cap) (hover : cap < (buf ++ data).length)
    (full : Bool) :
    (⟨.run, buf, data.length, full, false, false⟩ : Decoder).Discards cap (data ++ (body ++ [delimiter])) := by
  induction data generalizing buf with
  | nil => simp at hover; omega
  | cons b data ih =>
    obtain ⟨hb, hdata⟩ := List.forall_mem_cons.1 hdata
    by_cases hfull : buf.length = cap
    · rw [List.cons_append, ← List.append_assoc]
      exact .of_step (Decoder.step_run_overflow rfl hfull hb) (by decide)
        (Decoder.discards_of_hunt rfl (List.forall_mem_append.2 ⟨hdata, hbody⟩))
    · have hmore : 2 ≤ (b :: data).length := by
        simp at hover ⊢
        omega
      have hbuf' : (buf ++ [b]).length ≤ cap := by
        rw [List.length_append, List.length_singleton]
        omega
      exact .of_step (Decoder.step_run_more rfl hfull hmore hb) (by decide) (ih hdata hbuf' (by simpa using hover))

/-- A run that does not fit, fed with its marker to a decoder that opens it. -/
theorem Decoder.Opens.discards_markedRun {cap : Nat} {d : Decoder} {buf : List Byte} (h : d.Opens cap buf)
    {run body : List Byte} (hrun : RunData run) (hbody : ∀ b ∈ body, b ≠ delimiter) (hbuf : buf.length ≤ cap)
    (hover : cap < (buf ++ run).length) : d.Discards cap (markedRun run ++ (body ++ [delimiter])) := by
  obtain ⟨e, rfl, hzp, hready, hstep⟩ := h
  have hpos : run.length ≠ 0 := by
    simp at hover
    omega
  have hstart : e.startMarker (BitVec.ofNat 8 (run.length + 1)) =
      ⟨.run, e.buf, run.length, run.length == maxRun, false, false⟩ := by
    rw [Decoder.startMarker, toNat_marker hrun, marker_beq_fullMarker hrun, hzp, hready, if_neg (by omega)]
    rfl
  refine .of_step (hstep _ (marker_ne_delimiter hrun)) (by decide) ?_
  rw [hstart]
  exact Decoder.discards_runData hrun.2 hbody hbuf hover _

/-- Between two runs, the owed zero overflows where the buffer has no room for it (40_codec.md R115). -/
theorem Decoder.discards_betweenRuns {cap : Nat} {buf : List Byte} {full : Bool} (hbuf : buf.length ≤ cap)
    (hover : cap < (buf ++ owedZero full).length) {m : Byte} (hm : m ≠ delimiter) {body : List Byte}
    (hbody : ∀ b ∈ body, b ≠ delimiter) :
    (Decoder.betweenRuns buf full).Discards cap (m :: (body ++ [delimiter])) := by
  cases full with
  | true =>
    simp [owedZero] at hover
    omega
  | false =>
    have hfull : buf.length = cap := by
      simp [owedZero] at hover
      omega
    exact .of_step (Decoder.step_marker_overflow rfl rfl hfull hm) (by decide) (Decoder.discards_of_hunt rfl hbody)

/-- A frame whose payload does not fit behind `buf` overflows in its first run, at the owed zero, or later. -/
theorem Decoder.Opens.discards_frameBytes {cap : Nat} {d : Decoder} {buf : List Byte} (h : d.Opens cap buf)
    {run : List Byte} {runs : List (List Byte)} (hruns : ∀ r ∈ run :: runs, RunData r) (hbuf : buf.length ≤ cap)
    (hover : cap < (buf ++ framePayload (run :: runs)).length) : d.Discards cap (frameBytes (run :: runs)) := by
  induction runs generalizing d buf run with
  | nil => exact h.discards_markedRun (hruns run (by simp)) (body := []) (by simp) hbuf hover
  | cons next runs ih =>
    obtain ⟨hrun, hrest⟩ := List.forall_mem_cons.1 hruns
    have hbody := ne_delimiter_of_mem_flatMap hrest
    rw [frameBytes]
    by_cases hfits : (buf ++ run).length ≤ cap
    · refine .of_feed (h.feed_markedRun hrun hfits) (by simp) ?_
      by_cases hzero : (buf ++ run ++ owedZero (run.length == maxRun)).length ≤ cap
      · rw [framePayload_cons_cons, ← List.append_assoc, ← List.append_assoc] at hover
        exact ih (Decoder.opens_betweenRuns hzero) hrest hzero hover
      · obtain ⟨hnext, hlater⟩ := List.forall_mem_cons.1 hrest
        rw [frameBytes_eq_flatMap]
        exact Decoder.discards_betweenRuns hfits (not_le.1 hzero) (marker_ne_delimiter hnext)
          (body := next ++ runs.flatMap markedRun)
          (List.forall_mem_append.2 ⟨hnext.2, ne_delimiter_of_mem_flatMap hlater⟩)
    · rw [frameBytes_eq_flatMap]
      exact h.discards_markedRun hrun hbody hbuf (not_le.1 hfits)

/-- Settles O32: Encode(P) is a frame of the grammar, and no frame with so long a payload fits. -/
theorem oversizeFrameDiscarded : Obligations.OversizeFrameDiscarded := by
  intro cap payload d hover hinv hidle hready
  obtain ⟨runs, hne, hruns, hframe, hpayload⟩ := encodeFrame_isFrameOf payload
  obtain ⟨run, runs, rfl⟩ := List.exists_cons_of_ne_nil hne
  rw [hframe]
  exact (Decoder.opens_of_idle cap hinv hidle hready).discards_frameBytes hruns (Nat.zero_le _) (by simpa [← hpayload])

end Sys2Proof.Machine

/-! PROOFS of the statements about what a codec command and a channel command do (40_codec.md R108, R119, R120; 41_channel.md
R155 to R160). `Channel.after` says once what a command leaves of the channel it names; `exec_of_namedChannel` says that
the machine changes there and in its responses only. -/

namespace Sys2Proof.Machine

open Sys2Proof

/-! The codec commands. -/

/-- ENCODE of a payload longer than N_MAX (40_codec.md R108). -/
theorem exec_encode_of_lt {s : State} {payload : List Byte} (h : s.cfg.nMax < payload.length) :
    exec (.encode payload) s = .next (s.reject .errLength) := by
  change Host.Outcome.next (s.onPayload payload _) = _
  rw [State.onPayload, if_pos h]

/-- DEC_APPEND while a completed frame is held (40_codec.md R119). -/
theorem exec_decAppend_of_ready {ch : ChannelIx} {s : State} {c : Channel} (hc : s.chan? ch.val = some c)
    (hready : c.dec.ready = true) (b : Byte) : exec (.decAppend ch b) s = .next (s.reject .errBusy) := by
  change Host.Outcome.next (s.onChannel ch _) = _
  rw [State.onChannel_of_some hc, if_pos hready]

/-- DEC_RELEASE on an existing channel (40_codec.md R120). -/
theorem exec_decRelease_of_some {ch : ChannelIx} {s : State} {c : Channel} (hc : s.chan? ch.val = some c) :
    exec (.decRelease ch) s =
      .next ((s.setChan ch.val { c with dec := c.dec.release }).answer (flagWord c.dec.ready) 0 []) :=
  congrArg Host.Outcome.next (State.onChannel_of_some hc _)

/-- Writing a channel's own record back changes nothing. -/
theorem State.setChan_of_chan? {s : State} {ch : Nat} {c : Channel} (hc : s.chan? ch = some c) : s.setChan ch c = s := by
  obtain ⟨hlt, rfl⟩ := List.getElem?_eq_some_iff.1 hc
  rw [State.setChan, List.set_getElem_self]

/-- Settles O36: the payload operand fits N_MAX or is rejected. -/
theorem encodeResult : Obligations.EncodeResult := by
  intro payload s
  exact ⟨fun hle => exec_encode_of_le hle, fun hlt => exec_encode_of_lt hlt⟩

/-- Settles O37: one decoder step while no frame is held, a rejection while one is. -/
theorem decAppendResult : Obligations.DecAppendResult := by
  intro ch b s c hc
  exact ⟨fun hready => (exec_decAppend_of_not_ready hc hready b).trans rfl,
    fun hready => exec_decAppend_of_ready hc hready b⟩

/-- Settles O38: the release empties a decoder that holds a frame, and changes nothing otherwise. -/
theorem decReleaseResult : Obligations.DecReleaseResult := by
  intro ch s c hc
  rw [exec_decRelease_of_some hc]
  refine ⟨fun hready => ?_, fun hready => ?_⟩
  · rw [Decoder.release, if_pos hready, hready]
    rfl
  · rw [Decoder.release_of_not_ready hready, State.setChan_of_chan? hc, hready]
    rfl

/-! The channel that a command names. -/

/-- What a channel command leaves of the channel it names (40_codec.md R119, R120; 41_channel.md R155 to R160). -/
def Channel.after (cfg : Config) (c : Channel) : Instr → Channel
  | .decAppend _ b => if c.dec.ready then c else { c with dec := (c.dec.step (decCap cfg) b).1 }
  | .decRelease _ => { c with dec := c.dec.release }
  | .tryRead _ => (c.tryRead cfg).chan
  | .writeRaw _ bs => c.adapterWrite bs
  | .frameRead _ | .isConnected _ | .status _ => c
  | .encode _ | .poll | .write _ => c

/-- A channel command on an existing channel replaces that channel's record and adds one response. -/
theorem exec_of_namedChannel {i : Instr} {n : Nat} {s : State} {c : Channel} (hn : namedChannel i = some n)
    (hc : s.chan? n = some c) : ∃ r, exec i s = .next ((s.setChan n (c.after s.cfg i)).respond r) := by
  have hsame : s.setChan n c = s := State.setChan_of_chan? hc
  cases i with
  | encode | poll | write => cases hn
  | decAppend ch b =>
    cases hn
    cases hready : c.dec.ready with
    | true =>
      rw [exec_decAppend_of_ready hc hready, Channel.after, if_pos hready, hsame]
      exact ⟨_, rfl⟩
    | false =>
      rw [exec_decAppend_of_not_ready hc hready, Channel.after, if_neg (by simp [hready])]
      exact ⟨_, rfl⟩
  | decRelease ch =>
    cases hn
    exact ⟨_, exec_decRelease_of_some hc⟩
  | tryRead ch =>
    cases hn
    exact ⟨_, congrArg Host.Outcome.next (State.onChannel_of_some hc _)⟩
  | writeRaw ch bs =>
    cases hn
    exact ⟨_, congrArg Host.Outcome.next (State.onChannel_of_some hc _)⟩
  | frameRead ch =>
    cases hn
    rw [Channel.after, hsame]
    obtain ⟨r, hr⟩ : ∃ r, (if c.dec.ready then s.answer c.dec.lenWord 0 c.dec.buf else s.reject .errNoFrame) =
        s.respond r := by split <;> exact ⟨_, rfl⟩
    exact ⟨r, congrArg Host.Outcome.next ((State.onChannel_of_some hc _).trans hr)⟩
  | isConnected ch =>
    cases hn
    rw [Channel.after, hsame]
    exact ⟨_, congrArg Host.Outcome.next (State.onChannel_of_some hc _)⟩
  | status ch =>
    cases hn
    rw [Channel.after, hsame]
    exact ⟨_, congrArg Host.Outcome.next (State.onChannel_of_some hc _)⟩

/-- A channel command on an absent channel (60_exceptions.md R232). -/
theorem exec_of_absentChannel {i : Instr} {n : Nat} {s : State} (hn : namedChannel i = some n)
    (habsent : s.chan? n = none) : exec i s = .next (s.reject .errChannel) := by
  cases i with
  | encode | poll | write => cases hn
  | decAppend | decRelease | tryRead | frameRead | writeRaw | isConnected | status =>
    cases hn
    exact congrArg Host.Outcome.next (State.onChannel_of_none habsent _)

/-! What each command leaves of its channel. -/

/-- A drain leaves a connected adapter alone (41_channel.md R154). -/
theorem drain_adapter_of_connected (cap : Nat) (d : Decoder) {a : Adapter} (ha : a.connected = true) (q : List Byte) :
    (drain cap d a q).adapter = a := by
  induction q generalizing d with
  | nil => rfl
  | cons b q ih =>
    rw [drain_cons_connected cap d ha]
    split
    · rfl
    · exact ih _

/-- A drain moves nothing of a wireless adapter but its Connection State (42_bringup.md R190, R192). -/
theorem drain_adapter_of_wireless (cap : Nat) (d : Decoder) (cs : ConnState) (sel : Selector) (q : List Byte) :
    ∃ cs', (drain cap d (.wireless cs sel) q).adapter = .wireless cs' sel := by
  obtain ⟨hkind, hsel⟩ := drain_adapter_fields cap d (.wireless cs sel) q
  cases hadapter : (drain cap d (.wireless cs sel) q).adapter with
  | wired => simp [hadapter, Adapter.kindField] at hkind
  | wireless cs' sel' =>
    obtain rfl : sel' = sel := by simpa [hadapter, Adapter.selField, BitVec.ofFin.injEq] using hsel
    exact ⟨cs', rfl⟩

/-- TRY_READ on a connected channel leaves the adapter and TXQ (41_channel.md R154). -/
theorem Channel.tryRead_of_connected (cfg : Config) {c : Channel} (hconn : c.connected = true) :
    (c.tryRead cfg).chan.adapter = c.adapter ∧ (c.tryRead cfg).chan.txq = c.txq :=
  ⟨drain_adapter_of_connected _ _ hconn _, by
    rw [Channel.tryRead_txq, Adapter.resendTx_of_connected hconn, List.append_nil]⟩

/-- TRY_READ on an unconnected wireless channel sends the configuration lines once and keeps SEL (42_bringup.md R186, R190). -/
theorem Channel.tryRead_of_unconnected (cfg : Config) {c : Channel} {cs : ConnState} {sel : Selector}
    (hadapter : c.adapter = .wireless cs sel) (hcs : cs ≠ .connected) :
    (∃ cs', (c.tryRead cfg).chan.adapter = .wireless cs' sel) ∧
      (c.tryRead cfg).chan.txq = c.txq ++ configLines cfg sel := by
  refine ⟨?_, by rw [Channel.tryRead_txq, hadapter, Adapter.resendTx, if_neg hcs]⟩
  rw [Channel.tryRead, hadapter]
  exact drain_adapter_of_wireless _ _ cs sel _

/-- DEC_APPEND and DEC_RELEASE write the decoder alone (40_codec.md R119, R120). -/
theorem Channel.after_of_decoder (cfg : Config) (c : Channel) {i : Instr} (h : i.op = .decAppend ∨ i.op = .decRelease) :
    ∃ d, c.after cfg i = { c with dec := d } := by
  cases i with
  | decAppend ch b =>
    rw [Channel.after]
    split <;> exact ⟨_, rfl⟩
  | decRelease ch => exact ⟨_, rfl⟩
  | encode | tryRead | frameRead | writeRaw | isConnected | status | poll | write => simp [Instr.op] at h

theorem Channel.after_of_tryRead (cfg : Config) (c : Channel) {i : Instr} (h : i.op = .tryRead) :
    c.after cfg i = (c.tryRead cfg).chan := by
  cases i with
  | tryRead => rfl
  | encode | decAppend | decRelease | frameRead | writeRaw | isConnected | status | poll | write => cases h

/-- WRITE_RAW writes the two traces alone (41_channel.md R157, R158). -/
theorem Channel.after_of_writeRaw (cfg : Config) (c : Channel) {i : Instr} (h : i.op = .writeRaw) :
    ∃ txq wrq, c.after cfg i = { c with txq := txq, wrq := wrq } := by
  cases i with
  | writeRaw ch bs => exact ⟨_, _, c.adapterWrite_eq bs⟩
  | encode | decAppend | decRelease | tryRead | frameRead | isConnected | status | poll | write => cases h

/-- FRAME_READ, IS_CONNECTED and STATUS write nothing (41_channel.md R156, R159, R160). -/
theorem Channel.after_of_reading (cfg : Config) (c : Channel) {i : Instr}
    (h : i.op = .frameRead ∨ i.op = .isConnected ∨ i.op = .status) : c.after cfg i = c := by
  cases i with
  | frameRead | isConnected | status => rfl
  | encode | decAppend | decRelease | tryRead | writeRaw | poll | write => simp [Instr.op] at h

/-- Settles O57: an absent channel is answered and no more; an existing one is replaced by `Channel.after`. -/
theorem channelCommandFrame : Obligations.ChannelCommandFrame := by
  intro i n s t hn hexec
  cases hchan : s.chan? n with
  | none =>
    rw [exec_of_absentChannel hn hchan] at hexec
    cases hexec
    exact ⟨rfl, rfl, rfl, rfl, fun k _ => rfl, fun c hc => nomatch hc⟩
  | some c =>
    obtain ⟨r, hr⟩ := exec_of_namedChannel hn hchan
    rw [hr] at hexec
    cases hexec
    refine ⟨rfl, rfl, rfl, s.nch_setChan _ _, fun k hk => s.chan?_setChan_ne _ hk.symm, ?_⟩
    rintro _ ⟨⟩
    refine ⟨_, s.chan?_setChan_self _ ((s.chan?_isSome_iff n).1 ⟨c, hchan⟩), fun hop => ?_, fun hop => ?_, fun hop => ?_,
      fun hop => Channel.after_of_reading s.cfg c hop⟩
    · obtain ⟨d, hd⟩ := Channel.after_of_decoder s.cfg c hop
      rw [hd]
      exact ⟨rfl, rfl, rfl, rfl⟩
    · rw [Channel.after_of_tryRead s.cfg c hop]
      exact ⟨rfl, Channel.tryRead_of_connected s.cfg, fun _ _ => Channel.tryRead_of_unconnected s.cfg⟩
    · obtain ⟨txq, wrq, hc'⟩ := Channel.after_of_writeRaw s.cfg c hop
      rw [hc']
      exact ⟨rfl, rfl, rfl⟩

end Sys2Proof.Machine

/-! PROOFS of the statement about resynchronisation (40_codec.md R122). A poll of a connected channel is read byte by byte
(`Channel.poll_payloads_cons`); the decoder comes through the noise in some state that meets its invariants, the delimiter
leaves it at a frame boundary, and the frame behind it is delivered. -/

namespace Sys2Proof.Machine

open Sys2Proof

/-! The poll of one connected channel. -/

/-- TRY_READ of a connected channel is a drain of its queue (41_channel.md R154). -/
theorem Channel.tryRead_eq_drain (cfg : Config) {c : Channel} (hconn : c.connected = true) :
    c.tryRead cfg =
      ⟨(drain (decCap cfg) c.dec.release c.adapter c.rxq).ready,
        { c with
          dec := (drain (decCap cfg) c.dec.release c.adapter c.rxq).dec
          rxq := (drain (decCap cfg) c.dec.release c.adapter c.rxq).rest }⟩ := by
  simp [Channel.tryRead, drain_adapter_of_connected _ _ hconn, Adapter.resendTx_of_connected hconn]

/-- A poll of an empty queue delivers nothing. -/
theorem Channel.poll_payloads_of_rxq_nil (cfg : Config) {c : Channel} (hrxq : c.rxq = []) :
    (c.poll cfg).payloads = [] := by
  have hready : (c.tryRead cfg).ready = false := by simp [Channel.tryRead, hrxq, drain]
  rw [Channel.poll_eq, hready]
  rfl

/-- A poll of a connected channel, byte by byte: the first byte goes to the decoder, the buffer is delivered if it completes a
frame, and the rest of the queue is polled (41_channel.md R154, 43_mux.md R211). -/
theorem Channel.poll_payloads_cons (cfg : Config) {c : Channel} (hconn : c.connected = true) {b : Byte} {q : List Byte}
    (hrxq : c.rxq = b :: q) {d : Decoder} {code : DecodeCode} (hstep : c.dec.release.step (decCap cfg) b = (d, code)) :
    (c.poll cfg).payloads =
      (if code = .complete then [d.buf] else []) ++ (({ c with dec := d, rxq := q } : Channel).poll cfg).payloads := by
  have hready := Decoder.step_ready c.dec.release_ready (decCap cfg) b
  rw [hstep] at hready
  split
  · next hcode =>
    have hread : c.tryRead cfg = ⟨true, { c with dec := d, rxq := q }⟩ := by
      rw [Channel.tryRead_eq_drain cfg hconn, hrxq, drain_cons_connected _ _ hconn, hstep, if_pos hcode]
    rw [Channel.poll_eq, hread]
    rfl
  · next hcode =>
    have hrelease : d.release = d := Decoder.release_of_not_ready (Bool.eq_false_iff.2 fun h => hcode (hready.1 h))
    have hread : c.tryRead cfg = ({ c with dec := d, rxq := q } : Channel).tryRead cfg := by
      rw [Channel.tryRead_eq_drain cfg hconn, Channel.tryRead_eq_drain cfg (c := { c with dec := d, rxq := q }) hconn,
        hrxq, drain_cons_connected _ _ hconn, hstep, if_neg hcode, hrelease]
    rw [Channel.poll_eq, hread, ← Channel.poll_eq]
    rfl

/-- At a frame boundary the poll of one queued frame delivers its payload (40_codec.md R121, 43_mux.md R211). -/
theorem Channel.poll_payloads_of_frame {cfg : Config} {c : Channel} (hconn : c.connected = true) (hinv : c.dec.Invariant)
    (hidle : c.dec.phase = .idle) {payload : List Byte} (hroom : payload.length ≤ decCap cfg)
    (hrxq : c.rxq = encodeFrame payload) : (c.poll cfg).payloads = [payload] := by
  have hinv' := Decoder.release_invariant hinv
  have hidle' := c.dec.release_phase.trans hidle
  have hdrain := drain_of_completes hconn [] (completesAtLast_encodeFrame hroom hinv' hidle' c.dec.release_ready)
  rw [Decoder.feed_of_isFrameOf (encodeFrame_isFrameOf payload) hroom hinv' hidle' c.dec.release_ready,
    List.append_nil] at hdrain
  have hread : c.tryRead cfg = ⟨true, { c with dec := .holding payload, rxq := [] }⟩ := by
    rw [Channel.tryRead_eq_drain cfg hconn, hrxq, hdrain]
  rw [Channel.poll_eq, hread, if_pos rfl, Channel.poll_payloads_of_rxq_nil cfg rfl]
  rfl

/-- Whatever the noise did to the decoder, the delimiter leaves it at a frame boundary, and the frame behind it is the last to
be delivered (40_codec.md R122). -/
theorem Channel.poll_payloads_after_noise {cfg : Config} {c : Channel} (hconn : c.connected = true)
    (hinv : c.dec.Invariant) {noise payload : List Byte} (hroom : payload.length ≤ decCap cfg)
    (hrxq : c.rxq = noise ++ delimiter :: encodeFrame payload) :
    ∃ before, (c.poll cfg).payloads = before ++ [payload] := by
  induction noise generalizing c with
  | nil =>
    have hd := Decoder.step_invariant (Decoder.release_invariant hinv) c.dec.release_ready (decCap cfg) delimiter
    have hidle := Decoder.step_delimiter_phase (decCap cfg) c.dec.release
    rcases hstep : c.dec.release.step (decCap cfg) delimiter with ⟨d, code⟩
    rw [hstep] at hd hidle
    have hframe := Channel.poll_payloads_of_frame (c := { c with dec := d, rxq := encodeFrame payload })
      hconn hd hidle hroom rfl
    rw [Channel.poll_payloads_cons cfg hconn hrxq hstep, hframe]
    exact ⟨_, rfl⟩
  | cons b noise ih =>
    have hd := Decoder.step_invariant (Decoder.release_invariant hinv) c.dec.release_ready (decCap cfg) b
    rcases hstep : c.dec.release.step (decCap cfg) b with ⟨d, code⟩
    rw [hstep] at hd
    obtain ⟨before, hbefore⟩ := ih (c := { c with dec := d, rxq := _ }) hconn hd rfl
    rw [Channel.poll_payloads_cons cfg hconn hrxq hstep, List.append_eq, hbefore, ← List.append_assoc]
    exact ⟨_, rfl⟩

/-! The poll of every channel. -/

/-- Of the deliveries of a poll, those from one channel are what polling it answers (43_mux.md R212). -/
theorem pollFrom_deliveries_filter (cfg : Config) (k : Nat) {cs : List Channel} {i : Nat} {c : Channel}
    (hc : cs[i]? = some c) :
    ((pollFrom cfg k cs).deliveries.filter fun d => d.ch == k + i) = (c.poll cfg).payloads.map (Delivery.mk (k + i)) := by
  induction cs generalizing k i with
  | nil => cases hc
  | cons c₀ cs ih =>
    rw [pollFrom_cons, List.filter_append]
    cases i with
    | zero =>
      cases hc
      have hlater : ((pollFrom cfg (k + 1) cs).deliveries.filter fun d => d.ch == k + 0) = [] := by
        refine List.filter_eq_nil_iff.2 fun d hd => ?_
        obtain ⟨i, _, -, hch, -⟩ := mem_pollFrom_deliveries hd
        simp [hch]
        omega
      rw [hlater, List.append_nil]
      exact List.filter_eq_self.2 (by simp)
    | succ i =>
      have hfirst : (((c₀.poll cfg).payloads.map (Delivery.mk k)).filter fun d => d.ch == k + (i + 1)) = [] :=
        List.filter_eq_nil_iff.2 (by simp)
      rw [hfirst, List.nil_append, show k + (i + 1) = k + 1 + i by omega]
      exact ih (k + 1) hc

/-- Settles O52: the deliveries from the channel end with the payload of the frame behind the noise. -/
theorem frameAfterNoiseDelivered : Obligations.FrameAfterNoiseDelivered := by
  intro s k c noise payload hc hconn hinv hmax hrxq
  obtain ⟨before, hbefore⟩ := Channel.poll_payloads_after_noise (cfg := s.cfg) hconn hinv (noise := noise) hmax
    (by rw [hrxq, List.append_assoc]; rfl)
  have hfilter := pollFrom_deliveries_filter s.cfg 0 hc
  rw [Nat.zero_add] at hfilter
  refine ⟨_, _, rfl, rfl, ?_⟩
  rw [hfilter, hbefore, List.map_append, List.map_singleton, List.getLast?_concat]

end Sys2Proof.Machine

/-! PROOFS of the statements about what a channel sent and about its view (41_channel.md R157, R161; 42_bringup.md R184 to
R186). Each operation of `Channel.Act` keeps what the traces say, and so does every advance; and of the commands only
those that `endsView` names touch a decoder that holds a frame. -/

namespace Sys2Proof.Machine

open Sys2Proof

/-! Which channels are connected (41_channel.md R153). -/

theorem Channel.connected_eq_true_iff (c : Channel) :
    c.connected = true ↔ c.adapter = .wired ∨ ∃ sel, c.adapter = .wireless .connected sel := by
  unfold Channel.connected
  cases c.adapter <;> simp

theorem Channel.connected_eq_false_iff (c : Channel) :
    c.connected = false ↔ ∃ cs sel, c.adapter = .wireless cs sel ∧ cs ≠ .connected := by
  unfold Channel.connected
  cases c.adapter <;> simp

theorem Channel.connected_of_unconnected {c : Channel} {cs : ConnState} {sel : Selector}
    (hadapter : c.adapter = .wireless cs sel) (hcs : cs ≠ .connected) : c.connected = false :=
  c.connected_eq_false_iff.2 ⟨cs, sel, hadapter, hcs⟩

/-! What the traces say of one channel. -/

theorem Channel.sentRight_of_wired {c : Channel} (hadapter : c.adapter = .wired) (cfg : Config) :
    c.SentRight cfg ↔ c.txq = c.wrq.flatten := by
  rw [Channel.SentRight, hadapter]

theorem Channel.sentRight_of_wireless {c : Channel} {cs : ConnState} {sel : Selector}
    (hadapter : c.adapter = .wireless cs sel) (cfg : Config) :
    c.SentRight cfg ↔
      (cs ≠ .connected → ∃ n : Nat, c.txq = (List.replicate (n + 1) (configLines cfg sel)).flatten) := by
  rw [Channel.SentRight, hadapter]

/-- The adapter and the two traces decide. -/
theorem Channel.SentRight.congr {cfg : Config} {c c' : Channel} (h : c.SentRight cfg) (hadapter : c'.adapter = c.adapter)
    (htxq : c'.txq = c.txq) (hwrq : c'.wrq = c.wrq) : c'.SentRight cfg := by
  rwa [Channel.SentRight, hadapter, htxq, hwrq]

/-- Construction sends the configuration lines once on a wireless channel, and nothing on a wired one (42_bringup.md R185). -/
theorem Channel.construct_sentRight (cfg : Config) (spec : ChannelSpec) : (Channel.construct cfg spec).SentRight cfg := by
  cases spec with
  | wired => rfl
  | wireless desiredBaud => exact fun _ => ⟨0, (List.flatten_singleton ..).symm⟩

/-- A read sends nothing on a connected channel and the configuration lines once more on an unconnected one (42_bringup.md
R186). -/
theorem Channel.tryRead_sentRight {cfg : Config} {c : Channel} (h : c.SentRight cfg) : (c.tryRead cfg).chan.SentRight cfg := by
  cases hconn : c.connected with
  | true =>
    obtain ⟨hadapter, htxq⟩ := Channel.tryRead_of_connected cfg hconn
    exact h.congr hadapter htxq rfl
  | false =>
    obtain ⟨cs, sel, hadapter, hcs⟩ := c.connected_eq_false_iff.1 hconn
    obtain ⟨⟨cs', hadapter'⟩, htxq⟩ := Channel.tryRead_of_unconnected cfg hadapter hcs
    obtain ⟨n, hn⟩ := (Channel.sentRight_of_wireless hadapter cfg).1 h hcs
    refine (Channel.sentRight_of_wireless hadapter' cfg).2 fun _ => ⟨n + 1, ?_⟩
    rw [htxq, hn, List.replicate_succ' (n := n + 1), List.flatten_append, List.flatten_singleton]

/-- A write sends what it records on a wired channel, and nothing on an unconnected one (41_channel.md R157). -/
theorem Channel.adapterWrite_sentRight {cfg : Config} {c : Channel} (h : c.SentRight cfg) (bs : List Byte) :
    (c.adapterWrite bs).SentRight cfg := by
  rw [Channel.adapterWrite_eq]
  cases hadapter : c.adapter with
  | wired =>
    rw [Channel.sentRight_of_wired hadapter] at h
    rw [if_pos (c.connected_eq_true_iff.2 (.inl hadapter)), Channel.sentRight_of_wired rfl]
    simp [h]
  | wireless cs sel =>
    rw [Channel.sentRight_of_wireless hadapter] at h
    rw [Channel.sentRight_of_wireless rfl]
    intro hcs
    simpa [Channel.connected_of_unconnected hadapter hcs] using h hcs

/-- Each operation keeps what the traces say. -/
theorem Channel.Act.sentRight {cfg : Config} {c c' : Channel} (h : c.Act cfg c') (hc : c.SentRight cfg) :
    c'.SentRight cfg := by
  cases h with
  | arrive b => rcases c.arrive_cases cfg b with ⟨-, heq⟩ | ⟨-, heq⟩ <;> rw [heq] <;> exact hc
  | append b => exact hc
  | release => exact hc
  | tryRead => exact Channel.tryRead_sentRight hc
  | write bs => exact Channel.adapterWrite_sentRight hc bs

theorem State.restart_sentRight (s : State) : s.restart.SentRight := by
  intro c hc
  obtain ⟨spec, -, rfl⟩ := List.mem_map.1 hc
  exact Channel.construct_sentRight s.cfg spec

theorem State.Advances.sentRight {s t : State} (h : s.Advances t) (hs : s.SentRight) : t.SentRight := by
  intro c' hmem
  obtain ⟨k, hk⟩ := List.mem_iff_getElem?.1 hmem
  obtain ⟨c, hc, hreach⟩ := h.exists_source hk
  rw [h.cfg]
  exact hreach.keeps (fun _ _ hact => hact.sentRight) (hs c (List.mem_of_getElem? hc))

/-! What leaves a view alone (41_channel.md R161). -/

/-- A byte received on an existing channel. -/
theorem State.rxArrive_of_some {s : State} {ch : Nat} {c : Channel} (hc : s.chan? ch = some c) (b : Byte) :
    s.rxArrive ch b = .next (s.setChan ch (c.arrive s.cfg b)) := by
  simp [State.rxArrive, hc]

@[simp] theorem Channel.arrive_dec (cfg : Config) (c : Channel) (b : Byte) : (c.arrive cfg b).dec = c.dec := by
  rcases c.arrive_cases cfg b with ⟨-, heq⟩ | ⟨-, heq⟩ <;> rw [heq]

@[simp] theorem Channel.adapterWrite_dec (c : Channel) (bs : List Byte) : (c.adapterWrite bs).dec = c.dec := by
  rw [Channel.adapterWrite_eq]

/-- Replacing channel n's record keeps channel k's decoder, unless k is n and the new record brings another decoder. -/
theorem State.setChan_keeps_dec {s : State} {n k : Nat} {x x' c : Channel} (hx : s.chan? n = some x)
    (hc : s.chan? k = some c) (h : n = k → x'.dec = x.dec) :
    ∃ c', (s.setChan n x').chan? k = some c' ∧ c'.dec = c.dec := by
  by_cases hk : n = k
  · subst hk
    obtain rfl : x = c := Option.some.inj (hx.symm.trans hc)
    exact ⟨x', s.chan?_setChan_self x' ((s.chan?_isSome_iff n).1 ⟨x, hx⟩), h rfl⟩
  · exact ⟨c, (s.chan?_setChan_ne x' hk).trans hc, rfl⟩

/-- A command on the channel that holds a view, and that does not end it, leaves the decoder. -/
theorem Channel.after_dec_of_view (cfg : Config) {c : Channel} {i : Instr} {n : Nat} (hready : c.dec.ready = true)
    (hn : namedChannel i = some n) (hview : endsView n i = false) : (c.after cfg i).dec = c.dec := by
  cases i with
  | decAppend ch b => rw [Channel.after, if_pos hready]
  | writeRaw ch bs => exact c.adapterWrite_dec bs
  | frameRead | isConnected | status => rfl
  | decRelease ch | tryRead ch =>
    cases hn
    simp [endsView] at hview
  | encode | poll | write => cases hn

theorem exec_keeps_view {i : Instr} {s t : State} {k : Nat} {c : Channel} (hc : s.chan? k = some c)
    (hready : c.dec.ready = true) (hview : endsView k i = false) (h : exec i s = .next t) :
    ∃ c', t.chan? k = some c' ∧ c'.dec = c.dec := by
  cases hn : namedChannel i with
  | none =>
    cases i with
    | encode payload =>
      obtain ⟨r, rfl⟩ := readingCommandsWriteNothing _ s t (.inl rfl) h
      exact ⟨c, hc, rfl⟩
    | poll => cases hview
    | write bs =>
      obtain ⟨t', ht', hchans⟩ := exec_write_chan? s bs
      cases ht'.symm.trans h
      exact ⟨_, hchans k c hc, c.adapterWrite_dec bs⟩
    | decAppend | decRelease | tryRead | frameRead | writeRaw | isConnected | status => cases hn
  | some n =>
    cases hx : s.chan? n with
    | none =>
      cases (exec_of_absentChannel hn hx).symm.trans h
      exact ⟨c, hc, rfl⟩
    | some x =>
      obtain ⟨r, hr⟩ := exec_of_namedChannel hn hx
      cases hr.symm.trans h
      refine State.setChan_keeps_dec hx hc ?_
      rintro rfl
      obtain rfl : x = c := Option.some.inj (hx.symm.trans hc)
      exact Channel.after_dec_of_view s.cfg hready hn hview

theorem issue_keeps_view {cmd : Command} {s t : State} {k : Nat} {c : Channel} (hc : s.chan? k = some c)
    (hready : c.dec.ready = true) (hview : ∀ i, decode cmd = .ok i → endsView k i = false) (h : issue cmd s = .next t) :
    ∃ c', t.chan? k = some c' ∧ c'.dec = c.dec := by
  unfold issue at h
  split at h
  · next i hdec => exact exec_keeps_view hc hready (hview i hdec) h
  · cases h
    exact ⟨c, hc, rfl⟩

theorem State.rxArrive_keeps_dec {s t : State} {ch k : Nat} {b : Byte} {c : Channel} (hc : s.chan? k = some c)
    (h : s.rxArrive ch b = .next t) : ∃ c', t.chan? k = some c' ∧ c'.dec = c.dec := by
  cases hx : s.chan? ch with
  | none => simp [State.rxArrive, hx] at h
  | some x =>
    cases (State.rxArrive_of_some hx b).symm.trans h
    exact State.setChan_keeps_dec hx hc fun _ => x.arrive_dec s.cfg b

/-! The statements. -/

/-- Settles O17: construction establishes what the traces say, and every operation on a channel keeps it. -/
theorem stepKeepsSentRight : Obligations.StepKeepsSentRight := by
  intro s t hs hstep
  rcases step_cases hstep with ⟨-, rfl⟩ | hadv
  · exact s.taken.restart_sentRight
  · exact hadv.sentRight hs

/-- Settles O22: an arrival writes no decoder, and a command writes that of its own channel only, unless it ends the view. -/
theorem viewStaysUntilReleased : Obligations.ViewStaysUntilReleased := by
  intro s t k c hc hready hreset hview hstep
  unfold step at hstep
  split at hstep
  · cases hstep
    exact ⟨c, hc, rfl⟩
  · next cmd hcmd => exact issue_keeps_view (s := s.taken) hc hready (fun i => hview cmd i hcmd) hstep
  · exact State.rxArrive_keeps_dec (s := s.taken) hc hstep
  · next hnext => exact absurd hnext hreset

end Sys2Proof.Machine

/-! PROOFS of the statements about the results of the channel commands (41_channel.md R152 to R160). On an existing channel
each command is one equation; the status word is read field by field, and each field at its place is the value packed
there. -/

namespace Sys2Proof.Machine

open Sys2Proof

/-! The commands on an existing channel. -/

theorem exec_tryRead_of_some {ch : ChannelIx} {s : State} {c : Channel} (hc : s.chan? ch.val = some c) :
    exec (.tryRead ch) s =
      .next ((s.setChan ch.val (c.tryRead s.cfg).chan).answer (flagWord (c.tryRead s.cfg).ready)
        (if (c.tryRead s.cfg).ready then (c.tryRead s.cfg).chan.dec.lenWord else 0) []) :=
  congrArg Host.Outcome.next (State.onChannel_of_some hc _)

theorem exec_frameRead_of_some {ch : ChannelIx} {s : State} {c : Channel} (hc : s.chan? ch.val = some c) :
    exec (.frameRead ch) s =
      .next (if c.dec.ready then s.answer c.dec.lenWord 0 c.dec.buf else s.reject .errNoFrame) :=
  congrArg Host.Outcome.next (State.onChannel_of_some hc _)

theorem exec_writeRaw_of_some {ch : ChannelIx} {s : State} {c : Channel} (hc : s.chan? ch.val = some c) (bs : List Byte) :
    exec (.writeRaw ch bs) s = .next ((s.setChan ch.val (c.adapterWrite bs)).answer 0 0 []) :=
  congrArg Host.Outcome.next (State.onChannel_of_some hc _)

theorem exec_isConnected_of_some {ch : ChannelIx} {s : State} {c : Channel} (hc : s.chan? ch.val = some c) :
    exec (.isConnected ch) s = .next (s.answer (flagWord c.connected) 0 []) :=
  congrArg Host.Outcome.next (State.onChannel_of_some hc _)

theorem exec_status_of_some {ch : ChannelIx} {s : State} {c : Channel} (hc : s.chan? ch.val = some c) :
    exec (.status ch) s = .next (s.answer c.statusWord c.dec.lenWord []) :=
  congrArg Host.Outcome.next (State.onChannel_of_some hc _)

/-! A received byte (41_channel.md R152). -/

/-- A pending byte is taken off the queue and arrives (20_memory.md R61). -/
theorem step_of_rxArrive {s : State} {ch : Nat} {b : Byte} {rest : List Input}
    (h : s.inputs = .rxArrive ch b :: rest) : step s = ({ s with inputs := rest } : State).rxArrive ch b := by
  simp [step, State.nextInput, State.taken, h]

/-! The status word (10_state.md R38). -/

/-- The fields of the status word, at their places: an extraction passes by the fields above and below it. -/
theorem Channel.statusWord_fields (c : Channel) :
    c.statusWord.extractLsb' 0 1 = c.adapter.kindField ∧ c.statusWord.extractLsb' 1 1 = flagBit c.connected ∧
      c.statusWord.extractLsb' 2 3 = c.adapter.csField ∧ c.statusWord.extractLsb' 5 3 = c.adapter.selField ∧
      c.statusWord.extractLsb' 8 2 = c.dec.phase.code ∧ c.statusWord.extractLsb' 10 1 = flagBit c.dec.ready ∧
      c.statusWord.extractLsb' 11 1 = flagBit c.dec.zp ∧ c.statusWord.extractLsb' 12 1 = flagBit c.dec.full ∧
      c.statusWord.extractLsb' 13 3 = 0#3 ∧ c.statusWord.extractLsb' 16 8 = BitVec.ofNat 8 c.dec.rem ∧
      c.statusWord.extractLsb' 24 8 = 0#8 := by
  unfold Channel.statusWord
  refine ⟨?kind, ?_, ?_, ?_, ?_, ?_, ?_, ?_, ?_, ?_, ?_⟩
  case kind =>
    repeat rw [BitVec.extractLsb'_append_eq_of_add_le (by decide)]
    exact BitVec.extractLsb'_eq_self
  all_goals
    repeat rw [BitVec.extractLsb'_append_eq_of_add_le (by decide)]
    rw [BitVec.extractLsb'_append_eq_of_le (by decide)]
    exact BitVec.extractLsb'_eq_self

theorem flagBit_eq_one_iff (b : Bool) : flagBit b = 1#1 ↔ b = true := by
  cases b <;> decide

theorem Adapter.csField_toNat (cs : ConnState) (sel : Selector) :
    (Adapter.wireless cs sel).csField.toNat = cs.ordinal := by
  cases cs <;> rfl

/-! The statements. -/

/-- Settles O10: the byte arrives on the channel's record, which takes it or stays. -/
theorem arrivalJoinsQueueOrIsLost : Obligations.ArrivalJoinsQueueOrIsLost := by
  intro s ch b rest c hinputs hc
  have hc' : ({ s with inputs := rest } : State).chan? ch = some c := hc
  rw [step_of_rxArrive hinputs, State.rxArrive_of_some hc']
  refine ⟨fun hroom => ?_, fun hfull => ?_⟩
  · rw [Channel.arrive, if_pos hroom]
    rfl
  · rw [Channel.arrive, if_neg (Nat.not_lt.2 hfull), State.setChan_of_chan? hc']

/-- Settles O39. -/
theorem tryReadResult : Obligations.TryReadResult := by
  intro ch s c hc
  exact (exec_tryRead_of_some hc).trans rfl

/-- Settles O40: the command answers or rejects by READY. -/
theorem frameReadResult : Obligations.FrameReadResult := by
  intro ch s c hc
  rw [exec_frameRead_of_some hc]
  refine ⟨fun hready => ?_, fun hready => ?_⟩
  · rw [if_pos hready]
    rfl
  · rw [if_neg (Bool.eq_false_iff.1 hready)]
    rfl

/-- Settles O41: the adapter write records the request on every channel and sends it on a connected one. -/
theorem writeRawResult : Obligations.WriteRawResult := by
  intro ch bs s c hc
  rw [exec_writeRaw_of_some hc, Channel.adapterWrite_eq]
  refine ⟨fun hconn => ?_, fun cs sel hadapter hcs => ?_⟩
  · rw [if_pos (c.connected_eq_true_iff.2 hconn)]
    rfl
  · rw [if_neg (Bool.eq_false_iff.1 (Channel.connected_of_unconnected hadapter hcs))]
    rfl

/-- Settles O42: the answer is CONNECTED(ch). -/
theorem isConnectedResult : Obligations.IsConnectedResult := by
  intro ch s c hc
  rw [exec_isConnected_of_some hc]
  refine ⟨fun hconn => ?_, fun cs sel hadapter hcs => ?_⟩
  · rw [c.connected_eq_true_iff.2 hconn]
    rfl
  · rw [Channel.connected_of_unconnected hadapter hcs]
    rfl

/-- Settles O43: the answer is the status word, whose fields are the values of the channel's record. -/
theorem statusResult : Obligations.StatusResult := by
  intro ch s c hc hrem
  obtain ⟨hkind, hconn, hcs, hsel, hphase, hready, hzp, hfull, hrsv, hremField, htop⟩ := c.statusWord_fields
  refine ⟨c.statusWord, (exec_status_of_some hc).trans rfl, fun hadapter => ?_, fun cs sel hadapter => ?_,
    fun h => ?_, fun h => ?_, fun h => ?_, fun h => ?_, hready, hzp, hfull, hrsv, ?_, htop⟩
  · rw [hkind, hconn, hcs, hsel, Channel.connected, hadapter]
    exact ⟨rfl, rfl, rfl, rfl⟩
  · rw [hkind, hconn, hcs, hsel, Channel.connected, hadapter, flagBit_eq_one_iff, Adapter.connected_wireless, beq_iff_eq]
    exact ⟨rfl, Iff.rfl, Adapter.csField_toNat cs sel, rfl⟩
  · rw [hphase, h]; rfl
  · rw [hphase, h]; rfl
  · rw [hphase, h]; rfl
  · rw [hphase, h]; rfl
  · rw [hremField, BitVec.toNat_ofNat]
    omega

end Sys2Proof.Machine

/-! PROOFS of the statements about what TryRead does with the receive queue (41_channel.md R154; 42_bringup.md R186 to R191).
A queue either has a head that completes a frame (connects the matcher) with its last byte only, or completes none
(connects nowhere). One equation for TryRead in each of these four cases carries every statement. -/

namespace Sys2Proof.Machine

open Sys2Proof

/-! The bytes that complete a frame. -/

theorem CompletesAtLast.cons {cap : Nat} {d : Decoder} {b : Byte} {bs : List Byte} (hb : (d.step cap b).2 ≠ .complete)
    (h : CompletesAtLast cap (d.step cap b).1 bs) : CompletesAtLast cap d (b :: bs) := by
  obtain ⟨codes, hcodes, hfirst⟩ := h
  exact ⟨_ :: codes, by rw [Decoder.feed_cons, hcodes, List.cons_append],
    fun hmem => (List.mem_cons.1 hmem).elim (fun h => hb h.symm) hfirst⟩

theorem completesAtLast_singleton {cap : Nat} {d : Decoder} {b : Byte} (hb : (d.step cap b).2 = .complete) :
    CompletesAtLast cap d [b] :=
  ⟨[], by rw [Decoder.feed_cons, hb]; rfl, List.not_mem_nil⟩

/-- Some head of the queue completes a frame with its last byte only, or no frame completes. -/
theorem exists_completing_prefix (cap : Nat) (d : Decoder) (q : List Byte) :
    (∃ used rest, q = used ++ rest ∧ CompletesAtLast cap d used) ∨ DecodeCode.complete ∉ (d.feed cap q).2 := by
  induction q generalizing d with
  | nil => exact .inr List.not_mem_nil
  | cons b q ih =>
    by_cases hb : (d.step cap b).2 = .complete
    · exact .inl ⟨[b], q, rfl, completesAtLast_singleton hb⟩
    · rcases ih (d.step cap b).1 with ⟨used, rest, rfl, hused⟩ | hnone
      · exact .inl ⟨b :: used, rest, rfl, hused.cons hb⟩
      · exact .inr fun hmem => (List.mem_cons.1 hmem).elim (fun h => hb h.symm) hnone

/-- Bytes that complete a frame end with the delimiter (40_codec.md R114). -/
theorem CompletesAtLast.getLast?_eq {cap : Nat} {d : Decoder} {bs : List Byte} (h : CompletesAtLast cap d bs) :
    bs.getLast? = some delimiter := by
  induction bs generalizing d with
  | nil =>
    obtain ⟨codes, hcodes, -⟩ := h
    simp at hcodes
  | cons b bs ih =>
    rcases h.cons_cases with ⟨hb, rfl⟩ | ⟨-, hbs⟩
    · rw [((d.step_complete_iff cap b).1 hb).2, List.getLast?_singleton]
    · rw [List.getLast?_cons, ih hbs]
      rfl

/-! The bytes that connect (42_bringup.md R187 to R190). -/

/-- CONNECTED is terminal (42_bringup.md R190; log 18). -/
theorem foldl_matchByte_connected (bs : List Byte) : bs.foldl ConnState.matchByte .connected = .connected := by
  induction bs with
  | nil => rfl
  | cons b bs ih => exact ih

theorem ConnectsAtLast.cons {cs : ConnState} {b : Byte} {bs : List Byte} (hcs : cs ≠ .connected)
    (h : ConnectsAtLast (cs.matchByte b) bs) : ConnectsAtLast cs (b :: bs) := by
  refine ⟨h.1, fun k hk => ?_⟩
  cases k with
  | zero => exact hcs
  | succ k => exact h.2 k (Nat.lt_of_succ_lt_succ hk)

/-- Some head of the queue connects with its last byte only, or no head connects. -/
theorem exists_connecting_prefix {cs : ConnState} (hcs : cs ≠ .connected) (q : List Byte) :
    (∃ matched rest, q = matched ++ rest ∧ ConnectsAtLast cs matched) ∨
      ∀ k, (q.take k).foldl ConnState.matchByte cs ≠ .connected := by
  induction q generalizing cs with
  | nil => exact .inr fun k => by rwa [List.take_nil]
  | cons b q ih =>
    by_cases hb : cs.matchByte b = .connected
    · exact .inl ⟨[b], q, rfl, ConnectsAtLast.cons hcs ⟨hb, fun k hk => absurd hk k.not_lt_zero⟩⟩
    · rcases ih hb with ⟨matched, rest, rfl, hmatched⟩ | hnone
      · exact .inl ⟨b :: matched, rest, rfl, hmatched.cons hcs⟩
      · refine .inr fun k => ?_
        cases k with
        | zero => exact hcs
        | succ k => exact hnone k

/-- The drain of a channel that stays unconnected gives every byte to the matcher (41_channel.md R154). -/
theorem drain_of_unconnected (cap : Nat) (d : Decoder) {cs : ConnState} (sel : Selector) {q : List Byte}
    (h : q.foldl ConnState.matchByte cs ≠ .connected) :
    drain cap d (.wireless cs sel) q = ⟨false, d, .wireless (q.foldl ConnState.matchByte cs) sel, []⟩ := by
  induction q generalizing cs with
  | nil => rfl
  | cons b q ih =>
    have hcs : cs ≠ .connected := by
      rintro rfl
      exact h (foldl_matchByte_connected (b :: q))
    rw [drain_cons_unconnected cap d (by simpa using hcs)]
    exact ih h

/-! TryRead, in each case. -/

/-- On a connected channel, where the head of the queue completes a frame. -/
theorem Channel.tryRead_of_completes (cfg : Config) {c : Channel} (hconn : c.connected = true) {used rest : List Byte}
    (hrxq : c.rxq = used ++ rest) (h : CompletesAtLast (decCap cfg) c.dec.release used) :
    c.tryRead cfg = ⟨true, { c with dec := (c.dec.release.feed (decCap cfg) used).1, rxq := rest }⟩ := by
  rw [Channel.tryRead_eq_drain cfg hconn, hrxq, drain_of_completes hconn rest h]

/-- On a connected channel, where no frame completes. -/
theorem Channel.tryRead_of_incomplete (cfg : Config) {c : Channel} (hconn : c.connected = true)
    (h : DecodeCode.complete ∉ (c.dec.release.feed (decCap cfg) c.rxq).2) :
    c.tryRead cfg = ⟨false, { c with dec := (c.dec.release.feed (decCap cfg) c.rxq).1, rxq := [] }⟩ := by
  rw [Channel.tryRead_eq_drain cfg hconn, drain_of_incomplete hconn h]

/-- A wireless channel just connected by a read: the configuration lines were sent once, and `rest` is still queued
(42_bringup.md R186, R190). -/
def Channel.justConnected (cfg : Config) (c : Channel) (sel : Selector) (rest : List Byte) : Channel :=
  { c with adapter := .wireless .connected sel, rxq := rest, txq := c.txq ++ configLines cfg sel }

/-- On an unconnected channel, where the head of the queue connects. -/
theorem Channel.tryRead_of_connects (cfg : Config) {c : Channel} {cs : ConnState} {sel : Selector}
    {matched rest : List Byte} (hadapter : c.adapter = .wireless cs sel) (hcs : cs ≠ .connected)
    (h : ConnectsAtLast cs matched) (hrxq : c.rxq = matched ++ rest) :
    c.tryRead cfg = (c.justConnected cfg sel rest).tryRead cfg := by
  simp [Channel.tryRead, Channel.justConnected, hadapter, hrxq, drain_of_connects _ _ sel rest hcs h, Adapter.resendTx, hcs]

/-- On a wireless channel, where the queue does not connect. -/
theorem Channel.tryRead_of_unmatched (cfg : Config) {c : Channel} {cs : ConnState} {sel : Selector}
    (hadapter : c.adapter = .wireless cs sel) (h : c.rxq.foldl ConnState.matchByte cs ≠ .connected) :
    c.tryRead cfg =
      ⟨false,
        { dec := c.dec.release
          adapter := .wireless (c.rxq.foldl ConnState.matchByte cs) sel
          rxq := []
          txq := c.txq ++ configLines cfg sel
          wrq := c.wrq }⟩ := by
  have hcs : cs ≠ .connected := by
    rintro rfl
    exact h (foldl_matchByte_connected c.rxq)
  simp [Channel.tryRead, hadapter, drain_of_unconnected _ _ sel h, Adapter.resendTx, hcs]

/-- At a frame boundary of a connected channel, where a frame of an allowed payload is queued (40_codec.md R121). -/
theorem Channel.tryRead_of_frame {cfg : Config} {c : Channel} (hconn : c.connected = true) (hinv : c.dec.Invariant)
    (hidle : c.dec.phase = .idle) {payload rest : List Byte} (hroom : payload.length ≤ decCap cfg)
    (hrxq : c.rxq = encodeFrame payload ++ rest) :
    c.tryRead cfg = ⟨true, { c with dec := .holding payload, rxq := rest }⟩ := by
  have hinv' := Decoder.release_invariant hinv
  have hidle' := c.dec.release_phase.trans hidle
  rw [Channel.tryRead_of_completes cfg hconn hrxq
      (completesAtLast_encodeFrame hroom hinv' hidle' c.dec.release_ready),
    Decoder.feed_of_isFrameOf (encodeFrame_isFrameOf payload) hroom hinv' hidle' c.dec.release_ready]

/-! What the decoder took. -/

/-- From READY = 0 a drain leaves READY = 1 exactly when it completes a frame. -/
theorem drain_dec_ready (cap : Nat) {d : Decoder} (hready : d.ready = false) (a : Adapter) (q : List Byte) :
    (drain cap d a q).dec.ready = (drain cap d a q).ready := by
  induction q generalizing d a with
  | nil => exact hready
  | cons b q ih =>
    cases ha : a.connected with
    | false =>
      rw [drain_cons_unconnected cap d ha]
      exact ih hready _
    | true =>
      have hstep := Decoder.step_ready hready cap b
      rw [drain_cons_connected cap d ha]
      split
      · next hb => exact hstep.2 hb
      · next hb => exact ih (Bool.eq_false_iff.2 fun h => hb (hstep.1 h)) a

/-- The outcome `r` of a read is that of feeding `decoded` to the released decoder `d`: up to the byte that completes a frame,
or all there is when none completes (41_channel.md R154). -/
structure ReadResult.Decodes (cap : Nat) (d : Decoder) (decoded : List Byte) (r : ReadResult) : Prop where
  dec : r.chan.dec = (d.feed cap decoded).1
  complete : r.ready = true → CompletesAtLast cap d decoded ∧ decoded.getLast? = some 0x00#8
  incomplete : r.ready = false → DecodeCode.complete ∉ (d.feed cap decoded).2 ∧ r.chan.rxq = []

/-- A read of a connected channel gives a head of the queue to the decoder and leaves the rest. -/
theorem Channel.exists_decodes (cfg : Config) {c : Channel} (hconn : c.connected = true) :
    ∃ decoded, c.rxq = decoded ++ (c.tryRead cfg).chan.rxq ∧
      (c.tryRead cfg).Decodes (decCap cfg) c.dec.release decoded := by
  rcases exists_completing_prefix (decCap cfg) c.dec.release c.rxq with ⟨used, rest, hrxq, hused⟩ | hnone
  · rw [Channel.tryRead_of_completes cfg hconn hrxq hused]
    exact ⟨used, hrxq, rfl, fun _ => ⟨hused, hused.getLast?_eq⟩, nofun⟩
  · rw [Channel.tryRead_of_incomplete cfg hconn hnone]
    exact ⟨c.rxq, (List.append_nil _).symm, rfl, nofun, fun _ => ⟨hnone, rfl⟩⟩

/-- A read of an unconnected channel gives a head of the queue to the matcher, and goes on to the decoder only where that
head connects. -/
theorem Channel.exists_matched (cfg : Config) {c : Channel} {cs : ConnState} {sel : Selector}
    (hadapter : c.adapter = .wireless cs sel) (hcs : cs ≠ .connected) :
    ∃ matched decoded, c.rxq = matched ++ decoded ++ (c.tryRead cfg).chan.rxq ∧
      (c.tryRead cfg).chan.adapter = .wireless (matched.foldl ConnState.matchByte cs) sel ∧
      (∀ k < matched.length, (matched.take k).foldl ConnState.matchByte cs ≠ .connected) ∧
      (decoded ≠ [] → ConnectsAtLast cs matched) ∧
      (c.tryRead cfg).Decodes (decCap cfg) c.dec.release decoded := by
  rcases exists_connecting_prefix hcs c.rxq with ⟨matched, rest, hrxq, hmatched⟩ | hnone
  · have hconn : (c.justConnected cfg sel rest).connected = true := rfl
    obtain ⟨decoded, hrest, hdecodes⟩ := Channel.exists_decodes cfg hconn
    obtain ⟨hadapter', -⟩ := Channel.tryRead_of_connected cfg hconn
    rw [← Channel.tryRead_of_connects cfg hadapter hcs hmatched hrxq] at hrest hdecodes hadapter'
    refine ⟨matched, decoded, ?_, ?_, hmatched.2, fun _ => hmatched, hdecodes⟩
    · rw [List.append_assoc, ← hrest]
      exact hrxq
    · rw [hadapter', hmatched.1]
      rfl
  · have hall : c.rxq.foldl ConnState.matchByte cs ≠ .connected := by simpa using hnone c.rxq.length
    rw [Channel.tryRead_of_unmatched cfg hadapter hall]
    refine ⟨c.rxq, [], by simp, rfl, fun k _ => hnone k, fun h => absurd rfl h, rfl, nofun, fun _ => ⟨?_, rfl⟩⟩
    exact List.not_mem_nil

/-- TRY_READ where the outcome of TryRead is known (41_channel.md R155). -/
theorem exec_tryRead_of_eq {ch : ChannelIx} {s : State} {c : Channel} (hc : s.chan? ch.val = some c) {r : ReadResult}
    (hread : c.tryRead s.cfg = r) :
    exec (.tryRead ch) s =
      .next { s with
        chans := s.chans.set ch.val r.chan
        rsp := s.rsp ++
          [⟨.ok, if r.ready then 1 else 0, if r.ready then BitVec.ofNat 32 r.chan.dec.buf.length else 0, []⟩] } :=
  hread ▸ tryReadResult ch s c hc

/-! The statements. -/

/-- Settles O46: on a connected channel nothing is matched; on an unconnected one the matcher comes first. -/
theorem tryReadConsumes : Obligations.TryReadConsumes := by
  intro cfg c
  refine ⟨drain_dec_ready _ c.dec.release_ready _ _, rfl, ?_⟩
  cases hconn : c.connected with
  | true =>
    obtain ⟨decoded, hrxq, hdecodes⟩ := Channel.exists_decodes cfg hconn
    refine ⟨[], decoded, hrxq, fun _ => ⟨rfl, Channel.tryRead_of_connected cfg hconn⟩, fun cs sel hadapter hcs => ?_,
      hdecodes.dec, hdecodes.complete, hdecodes.incomplete⟩
    exact absurd hconn (Bool.eq_false_iff.1 (Channel.connected_of_unconnected hadapter hcs))
  | false =>
    obtain ⟨cs, sel, hadapter, hcs⟩ := c.connected_eq_false_iff.1 hconn
    obtain ⟨-, htxq⟩ := Channel.tryRead_of_unconnected cfg hadapter hcs
    obtain ⟨matched, decoded, hrxq, hadapter', hfirst, hthen, hdecodes⟩ := Channel.exists_matched cfg hadapter hcs
    refine ⟨matched, decoded, hrxq, nofun, fun cs' sel' h _ => ?_, hdecodes.dec, hdecodes.complete, hdecodes.incomplete⟩
    obtain ⟨rfl, rfl⟩ := Adapter.wireless.inj (hadapter.symm.trans h)
    exact ⟨hadapter', hfirst, hthen, htxq⟩

/-- Settles O47: TryRead of a connected channel where a frame completes, where none does, and where a whole frame is
queued. -/
theorem tryReadDecodesFrame : Obligations.TryReadDecodesFrame := by
  intro ch s c hc hconn
  exact ⟨fun used rest hrxq hused => exec_tryRead_of_eq hc (Channel.tryRead_of_completes s.cfg hconn hrxq hused),
    fun hnone => exec_tryRead_of_eq hc (Channel.tryRead_of_incomplete s.cfg hconn hnone),
    fun payload rest hinv hidle hmax hrxq => exec_tryRead_of_eq hc (Channel.tryRead_of_frame hconn hinv hidle hmax hrxq)⟩

/-- Settles O48. -/
theorem unconnectedReadFeedsMatcher : Obligations.UnconnectedReadFeedsMatcher := by
  intro cfg c cs sel hadapter hnone
  exact Channel.tryRead_of_unmatched cfg hadapter hnone

/-- Settles O49: the read that connects is that of the connected channel, to which a queued frame is one like any other. -/
theorem handshakeThenFrame : Obligations.HandshakeThenFrame := by
  refine ⟨fun cfg c cs sel matched rest hadapter hcs hmatched hrxq =>
    Channel.tryRead_of_connects cfg hadapter hcs hmatched hrxq, ?_, rfl, by decide⟩
  intro ch s c cs sel matched payload rest hc hadapter hcs hmatched hinv hidle hmax hrxq
  have hframe := Channel.tryRead_of_frame (c := c.justConnected s.cfg sel (encodeFrame payload ++ rest)) rfl hinv hidle hmax
    rfl
  rw [← Channel.tryRead_of_connects s.cfg hadapter hcs hmatched (hrxq.trans (List.append_assoc ..))] at hframe
  exact exec_tryRead_of_eq hc hframe

end Sys2Proof.Machine

/-! PROOFS of the statements about the bring-up (42_bringup.md). The matcher step is inverted once: match, mismatch in
MATCH_CR2, mismatch elsewhere. By induction on the bytes received, what an unconnected matcher has read ends with the part of
SEQ that its state stands for. -/

namespace Sys2Proof.Machine

open Sys2Proof

/-! Rate resolution (R183). -/

theorem resolve_rateTable : ∀ i : Selector, resolve (BitVec.ofNat 32 (rateTable.get i)) = i := by decide

/-- A rate outside the table falls back to the 9600 entry. -/
theorem resolve_of_notMem {r : BitVec 32} (h : r.toNat ∉ rateTable) : resolve r = 0 := by
  have hnone : rateTable.findIdx? (· == r.toNat) = none :=
    List.findIdx?_eq_none_iff.2 fun x hx => beq_false_of_ne fun heq => h (heq ▸ hx)
  rw [resolve, hnone]

/-! The matcher step (R187 to R190). -/

theorem ConnState.ordinal_next {cs : ConnState} (hcs : cs ≠ .connected) : cs.next.ordinal = cs.ordinal + 1 := by
  cases cs with
  | connected => exact absurd rfl hcs
  | initial | matchCr1 | matchLf1 | matchC | matchO | matchN | matchCr2 => rfl

theorem ConnState.next_eq_connected {cs : ConnState} (h : cs.next = .connected) : cs = .matchCr2 ∨ cs = .connected := by
  cases cs with
  | matchCr2 => exact .inl rfl
  | connected => exact .inr rfl
  | initial | matchCr1 | matchLf1 | matchC | matchO | matchN => cases h

/-- Everything the matcher can do with a byte: it advances on a match; on a mismatch it stays in MATCH_CR2 and goes back to
INITIAL from any other state. -/
theorem ConnState.matchByte_cases {cs : ConnState} (hcs : cs ≠ .connected) (b : Byte) :
    (confirmation[cs.ordinal]? = some b ∧ cs.matchByte b = cs.next) ∨
      (confirmation[cs.ordinal]? ≠ some b ∧ cs = .matchCr2 ∧ cs.matchByte b = .matchCr2) ∨
      (confirmation[cs.ordinal]? ≠ some b ∧ cs ≠ .matchCr2 ∧ cs.matchByte b = .initial) := by
  rw [ConnState.matchByte, if_neg hcs]
  by_cases hb : confirmation[cs.ordinal]? = some b
  · exact .inl ⟨hb, if_pos hb⟩
  · rw [if_neg hb]
    by_cases hcr2 : cs = .matchCr2
    · exact .inr (.inl ⟨hb, hcr2, if_pos hcr2⟩)
    · exact .inr (.inr ⟨hb, hcr2, if_neg hcr2⟩)

/-- Only the LF that MATCH_CR2 expects connects. -/
theorem ConnState.matchByte_connects {cs : ConnState} (hcs : cs ≠ .connected) {b : Byte}
    (h : cs.matchByte b = .connected) : cs = .matchCr2 ∧ b = 0x0A#8 := by
  rcases cs.matchByte_cases hcs b with ⟨hb, heq⟩ | ⟨-, -, heq⟩ | ⟨-, -, heq⟩
  · obtain rfl := (ConnState.next_eq_connected (heq.symm.trans h)).resolve_right hcs
    exact ⟨rfl, (Option.some.inj hb).symm⟩
  · cases heq.symm.trans h
  · cases heq.symm.trans h

/-! What the matcher has read. -/

/-- From MATCH_CR2 an LF connects, whatever came before it (R189). -/
theorem foldl_matchByte_matchCr2_lf (mid : List Byte) :
    (mid ++ [0x0A#8]).foldl ConnState.matchByte .matchCr2 = .connected := by
  induction mid with
  | nil => rfl
  | cons b mid ih =>
    rw [List.cons_append, List.foldl_cons]
    rcases ConnState.matchByte_cases (cs := .matchCr2) (by decide) b with ⟨-, heq⟩ | ⟨-, -, heq⟩ | ⟨-, hne, -⟩
    · rw [heq]
      exact foldl_matchByte_connected _
    · rwa [heq]
    · exact absurd rfl hne

/-- The bytes of an unconnected matcher end, behind a head that leaves it in INITIAL, with the part of SEQ that its state
stands for (R180); only in MATCH_CR2 may others follow (R189). -/
theorem exists_matched_of_unconnected (bs : List Byte) (h : bs.foldl ConnState.matchByte .initial ≠ .connected) :
    ∃ pre mid, pre.foldl ConnState.matchByte .initial = .initial ∧
      bs = pre ++ confirmation.take (bs.foldl ConnState.matchByte .initial).ordinal ++ mid ∧
      (bs.foldl ConnState.matchByte .initial ≠ .matchCr2 → mid = []) := by
  induction bs using List.reverseRecOn with
  | nil => exact ⟨[], [], rfl, rfl, fun _ => rfl⟩
  | append_singleton bs b ih =>
    rw [List.foldl_concat] at h ⊢
    generalize hcs : bs.foldl ConnState.matchByte .initial = cs at h ih ⊢
    have hunconn : cs ≠ .connected := by
      rintro rfl
      exact h rfl
    obtain ⟨pre, mid, hpre, hbs, hmid⟩ := ih hunconn
    rcases cs.matchByte_cases hunconn b with ⟨hb, heq⟩ | ⟨-, rfl, heq⟩ | ⟨-, -, heq⟩
    · have hcr2 : cs ≠ .matchCr2 := by
        rintro rfl
        exact h heq
      refine ⟨pre, [], hpre, ?_, fun _ => rfl⟩
      rw [heq, ConnState.ordinal_next hunconn, List.take_add_one, hb, hbs, hmid hcr2]
      simp
    · refine ⟨pre, mid ++ [b], hpre, ?_, fun hne => absurd heq hne⟩
      rw [heq, hbs, List.append_assoc]
    · refine ⟨bs ++ [b], [], ?_, ?_, fun _ => rfl⟩
      · rw [List.foldl_concat, hcs, heq]
      · rw [heq]
        simp [ConnState.ordinal]

/-- A matcher that has connected read all of SEQ, and possibly other bytes before the last LF. -/
theorem exists_confirmation_of_connected (bs : List Byte) (h : bs.foldl ConnState.matchByte .initial = .connected) :
    ∃ pre mid post, pre.foldl ConnState.matchByte .initial = .initial ∧
      bs = pre ++ confirmation.take 6 ++ mid ++ [0x0A#8] ++ post := by
  induction bs using List.reverseRecOn with
  | nil => cases h
  | append_singleton bs b ih =>
    by_cases hconn : bs.foldl ConnState.matchByte .initial = .connected
    · obtain ⟨pre, mid, post, hpre, hbs⟩ := ih hconn
      exact ⟨pre, mid, post ++ [b], hpre, by rw [hbs, List.append_assoc _ post]⟩
    · rw [List.foldl_concat] at h
      obtain ⟨hcr2, rfl⟩ := ConnState.matchByte_connects hconn h
      obtain ⟨pre, mid, hpre, hbs, -⟩ := exists_matched_of_unconnected bs hconn
      rw [hcr2] at hbs
      exact ⟨pre, mid, [], hpre, by simp [hbs, ConnState.ordinal]⟩

/-- SEQ but its LF, behind any bytes that lead back to INITIAL, then any bytes, then LF, connect for good. -/
theorem connected_of_confirmation {pre : List Byte} (hpre : pre.foldl ConnState.matchByte .initial = .initial)
    (mid post : List Byte) :
    (pre ++ confirmation.take 6 ++ mid ++ [0x0A#8] ++ post).foldl ConnState.matchByte .initial = .connected := by
  have hcr2 : (confirmation.take 6).foldl ConnState.matchByte .initial = .matchCr2 := by decide
  rw [List.append_assoc _ mid, List.foldl_append, List.foldl_append, List.foldl_append (l := pre), hpre, hcr2,
    foldl_matchByte_matchCr2_lf, foldl_matchByte_connected]

/-! A connected channel stays connected (R190). -/

/-- Each operation leaves a connected adapter alone. -/
theorem Channel.Act.adapter_of_connected {cfg : Config} {c c' : Channel} (h : c.Act cfg c') (hconn : c.connected = true) :
    c'.adapter = c.adapter := by
  cases h with
  | arrive b => rcases c.arrive_cases cfg b with ⟨-, heq⟩ | ⟨-, heq⟩ <;> rw [heq]
  | append b => rfl
  | release => rfl
  | tryRead => exact (Channel.tryRead_of_connected cfg hconn).1
  | write bs => rw [Channel.adapterWrite_eq]

/-! The statements. -/

/-- Settles O21: every operation on a channel leaves a CONNECTED adapter alone. -/
theorem connectedIsAbsorbing : Obligations.ConnectedIsAbsorbing := by
  intro s t k c sel hreset hstep hc hadapter
  obtain ⟨c', hc', hreach⟩ := (step_advances hreset hstep).chans k c hc
  refine ⟨c', hc', hreach.keeps (P := fun x => x.adapter = .wireless .connected sel) (fun x _ hact hx => ?_) hadapter⟩
  exact (hact.adapter_of_connected (x.connected_eq_true_iff.2 (.inr ⟨sel, hx⟩))).trans hx

/-- Settles O35: SEQ but its LF leads to MATCH_CR2, which only LF leaves; and no state is reached but by the bytes it stands
for. -/
theorem connectsExactlyOnConfirmation : Obligations.ConnectsExactlyOnConfirmation := by
  refine fun bs => ⟨exists_confirmation_of_connected bs, ?_⟩
  rintro ⟨pre, mid, post, hpre, rfl⟩
  exact connected_of_confirmation hpre mid post

/-- Settles O33: each entry of the table resolves to its index, and no other rate is found. -/
theorem resolveRate : Obligations.ResolveRate :=
  ⟨resolve_rateTable 0, resolve_rateTable 1, resolve_rateTable 2, resolve_rateTable 3, resolve_rateTable 4,
    resolve_rateTable 5, resolve_rateTable 6, resolve_rateTable 7, fun _ => resolve_of_notMem⟩

/-- Settles O34: one clause for each case of the matcher step. -/
theorem matcherStep : Obligations.MatcherStep := by
  intro cs b hcs
  rcases cs.matchByte_cases hcs b with ⟨hb, heq⟩ | ⟨hb, rfl, heq⟩ | ⟨hb, hcr2, heq⟩
  · refine ⟨fun _ => heq ▸ ConnState.ordinal_next hcs, fun hne => absurd hb hne, ?_⟩
    rintro rfl hlf
    exact absurd (Option.some.inj hb).symm hlf
  · exact ⟨fun hmatch => absurd hmatch hb, fun _ hne => absurd rfl hne, fun _ _ => heq⟩
  · exact ⟨fun hmatch => absurd hmatch hb, fun _ _ => heq, fun h => absurd h hcr2⟩

end Sys2Proof.Machine

/-! PROOFS of the statements about the multiplexer (43_mux.md R210 to R216). Polling one channel is read off the four equations
of TryRead; queued frames are then delivered one by one, by induction on the queue, and the channels one by one, by
induction on their list. -/

namespace Sys2Proof.Machine

open Sys2Proof

/-! WRITE (R215, R216). -/

/-- Settles O44: one adapter write on each channel, whose bytes a connected adapter alone sends. -/
theorem writeResult : Obligations.WriteResult := by
  intro bs s
  refine ⟨s.chans.map (·.adapterWrite bs), rfl, List.length_map _, fun k c hc => ?_⟩
  have hget : (s.chans.map (·.adapterWrite bs))[k]? = some (c.adapterWrite bs) := by
    rw [List.getElem?_map, show s.chans[k]? = some c from hc]
    rfl
  rw [hget, Channel.adapterWrite_eq]
  refine ⟨fun hadapter => ?_, fun cs sel hadapter hcs => ?_⟩
  · rw [if_pos (c.connected_eq_true_iff.2 hadapter)]
  · rw [Channel.connected_of_unconnected hadapter hcs, if_neg Bool.false_ne_true]

/-! The poll of one channel (R211), in the four cases of TryRead. -/

/-- On a connected channel, where the head of the queue completes a frame: its payload comes first, and the poll goes on. -/
theorem Channel.poll_of_completes (cfg : Config) {c : Channel} (hconn : c.connected = true) {used rest : List Byte}
    (hrxq : c.rxq = used ++ rest) (h : CompletesAtLast (decCap cfg) c.dec.release used) :
    c.poll cfg =
      ⟨(Channel.poll cfg { c with dec := (c.dec.release.feed (decCap cfg) used).1, rxq := rest }).chan,
        (c.dec.release.feed (decCap cfg) used).1.buf ::
          (Channel.poll cfg { c with dec := (c.dec.release.feed (decCap cfg) used).1, rxq := rest }).payloads⟩ := by
  rw [Channel.poll_eq, Channel.tryRead_of_completes cfg hconn hrxq h, if_pos rfl]

/-- On a connected channel, where no frame completes: the decoder keeps what it was fed, and nothing is delivered. -/
theorem Channel.poll_of_incomplete (cfg : Config) {c : Channel} (hconn : c.connected = true)
    (h : DecodeCode.complete ∉ (c.dec.release.feed (decCap cfg) c.rxq).2) :
    c.poll cfg = ⟨{ c with dec := (c.dec.release.feed (decCap cfg) c.rxq).1, rxq := [] }, []⟩ := by
  rw [Channel.poll_eq, Channel.tryRead_of_incomplete cfg hconn h, if_neg Bool.false_ne_true]

/-- A poll sees a channel through its TryRead only. -/
theorem Channel.poll_congr {cfg : Config} {c c' : Channel} (h : c.tryRead cfg = c'.tryRead cfg) :
    c.poll cfg = c'.poll cfg := by
  rw [Channel.poll_eq, h, ← Channel.poll_eq]

/-- On a wireless channel, where the queue does not connect: the matcher takes it whole, and nothing is delivered. -/
theorem Channel.poll_of_unmatched (cfg : Config) {c : Channel} {cs : ConnState} {sel : Selector}
    (hadapter : c.adapter = .wireless cs sel) (h : c.rxq.foldl ConnState.matchByte cs ≠ .connected) :
    c.poll cfg =
      ⟨{ dec := c.dec.release
         adapter := .wireless (c.rxq.foldl ConnState.matchByte cs) sel
         rxq := []
         txq := c.txq ++ configLines cfg sel
         wrq := c.wrq }, []⟩ := by
  rw [Channel.poll_eq, Channel.tryRead_of_unmatched cfg hadapter h, if_neg Bool.false_ne_true]

/-- Settles O60: one clause for each case of TryRead. -/
theorem pollOfOneChannel : Obligations.PollOfOneChannel := by
  intro cfg c
  refine ⟨fun hconn => ⟨fun used rest => Channel.poll_of_completes cfg hconn, Channel.poll_of_incomplete cfg hconn⟩,
    fun cs sel hadapter hcs => ⟨fun matched rest hrxq hmatched => ?_, Channel.poll_of_unmatched cfg hadapter⟩⟩
  exact Channel.poll_congr (Channel.tryRead_of_connects cfg hadapter hcs hmatched hrxq)

/-- A TryRead that completes no frame has emptied the queue and left no view (41_channel.md R154). -/
theorem Channel.tryRead_of_not_ready {cfg : Config} {c : Channel} (h : (c.tryRead cfg).ready = false) :
    (c.tryRead cfg).chan.rxq = [] ∧ (c.tryRead cfg).chan.dec.ready = false := by
  obtain ⟨hready, -, _, _, -, -, -, -, -, hincomplete⟩ := tryReadConsumes cfg c
  exact ⟨(hincomplete h).2, hready.trans h⟩

/-- The loop of a poll ends with such a TryRead, where its fuel lets it (R211, R214). -/
theorem Channel.pollLoop_empties (cfg : Config) {fuel : Nat} {c : Channel} (hfuel : c.rxq.length < fuel) :
    (Channel.pollLoop cfg fuel c).chan.rxq = [] ∧ (Channel.pollLoop cfg fuel c).chan.dec.ready = false := by
  induction fuel generalizing c with
  | zero => exact absurd hfuel (Nat.not_lt_zero _)
  | succ fuel ih =>
    rw [Channel.pollLoop_succ]
    split
    · next hready =>
      have hshort := c.tryRead_shortens cfg hready
      exact ih (by omega)
    · next hready => exact Channel.tryRead_of_not_ready (Bool.eq_false_iff.2 hready)

/-! The poll of every channel (R210, R213). -/

/-- POLL polls each channel in place and delivers what `pollFrom` collects. -/
theorem exec_poll (s : State) :
    exec .poll s =
      .next ((({ s with chans := s.chans.map fun c => (c.poll s.cfg).chan } : State).deliver
        (pollFrom s.cfg 0 s.chans).deliveries).answer (s.pollCount (pollFrom s.cfg 0 s.chans).deliveries.length) 0 []) := by
  rw [← pollFrom_chans s.cfg 0]
  rfl

/-- Where 32 bits hold the number of frames, it is v0 (R213). -/
theorem State.pollCount_of_lt (s : State) {n : Nat} (h : n < 2 ^ 32) : s.pollCount n = BitVec.ofNat 32 n :=
  if_pos h

/-- The deliveries of a poll come by ascending channel (R210, 20_memory.md R62). -/
theorem pollFrom_deliveries_ascending (cfg : Config) (k : Nat) (cs : List Channel) :
    ((pollFrom cfg k cs).deliveries.map Delivery.ch).Pairwise (· ≤ ·) := by
  induction cs generalizing k with
  | nil => exact List.Pairwise.nil
  | cons c cs ih =>
    rw [pollFrom_cons, List.map_append, List.map_map, List.pairwise_append]
    refine ⟨List.pairwise_map.2 (List.pairwise_of_forall fun _ _ => le_rfl), ih (k + 1), fun i hi j hj => ?_⟩
    obtain ⟨_, -, rfl⟩ := List.mem_map.1 hi
    obtain ⟨d, hd, rfl⟩ := List.mem_map.1 hj
    obtain ⟨n, _, -, hch, -⟩ := mem_pollFrom_deliveries hd
    change k ≤ d.ch
    omega

/-- Settles O45: the deliveries are those of `pollFrom`, read by order, by channel and by number. -/
theorem pollResult : Obligations.PollResult := by
  intro s
  refine ⟨_, (pollFrom s.cfg 0 s.chans).deliveries, _, exec_poll s, rfl, rfl, rfl, rfl, s.pollCount_of_lt,
    pollFrom_deliveries_ascending s.cfg 0 s.chans, fun d hd => ?_, List.length_map _, fun k c hc => ⟨?_, ?_⟩⟩
  · obtain ⟨i, c, hc, hch, -⟩ := mem_pollFrom_deliveries hd
    rw [hch, Nat.zero_add]
    exact (s.chan?_isSome_iff i).1 ⟨c, hc⟩
  · simp [State.chan?, show s.chans[k]? = some c from hc]
  · have hfilter := pollFrom_deliveries_filter s.cfg 0 hc
    rw [Nat.zero_add] at hfilter
    rw [hfilter, List.map_map]
    exact List.map_id _

/-- Settles O50: each channel is left by a poll of its own, whose loop has enough fuel. -/
theorem pollEmptiesChannels : Obligations.PollEmptiesChannels := by
  intro s t hexec c' hc'
  rw [exec_poll] at hexec
  cases hexec
  obtain ⟨c, -, rfl⟩ := List.mem_map.1 hc'
  exact Channel.pollLoop_empties s.cfg (Nat.lt_succ_self _)

/-! Queued frames (R211, R213; 40_codec.md R122). -/

/-- The bytes of queued frames: each behind a number of stray delimiters. -/
def queuedBytes (q : List (Nat × List Byte)) : List Byte :=
  q.flatMap fun f => List.replicate f.1 delimiter ++ encodeFrame f.2

theorem queuedBytes_cons (f : Nat × List Byte) (q : List (Nat × List Byte)) :
    queuedBytes (f :: q) = (List.replicate f.1 delimiter ++ encodeFrame f.2) ++ queuedBytes q :=
  List.flatMap_cons

/-- The channel with an empty queue and the decoder of reset. -/
def Channel.emptied (c : Channel) : Channel := { c with dec := Decoder.reset, rxq := [] }

/-- At a frame boundary nothing but a view is held, so the release leaves the decoder of reset (40_codec.md R118). -/
theorem Decoder.release_of_idle {d : Decoder} (h : d.Invariant) (hidle : d.phase = .idle) : d.release = Decoder.reset := by
  have hidle' : d.release.phase = .idle := d.release_phase.trans hidle
  have hinv := Decoder.release_invariant h
  have hbuf := hinv.idleEmpty hidle' d.release_ready
  obtain ⟨hrem, hfull, hzp⟩ := hinv.idle hidle'
  calc d.release
      = ⟨d.release.phase, d.release.buf, d.release.rem, d.release.full, d.release.zp, d.release.ready⟩ := rfl
    _ = Decoder.reset := by rw [hidle', hbuf, hrem, hfull, hzp, d.release_ready]; rfl

/-- Stray delimiters at a frame boundary are PENDING and change nothing (40_codec.md R113). -/
theorem Decoder.feed_reset_delimiters (cap n : Nat) :
    Decoder.reset.feed cap (List.replicate n delimiter) = (Decoder.reset, List.replicate n .pending) := by
  induction n with
  | zero => rfl
  | succ n ih =>
    have hstep : Decoder.reset.step cap delimiter = (Decoder.reset, .pending) := rfl
    rw [List.replicate_succ, Decoder.feed_cons, hstep, ih]
    rfl

/-- A frame behind stray delimiters, fed to the decoder of reset, completes with its last byte (40_codec.md R121, R122). -/
theorem Decoder.feed_reset_frame {cap : Nat} {payload : List Byte} (hroom : payload.length ≤ cap) (n : Nat) :
    Decoder.reset.feed cap (List.replicate n delimiter ++ encodeFrame payload) =
      (Decoder.holding payload,
        (List.replicate n .pending ++ List.replicate ((encodeFrame payload).length - 1) .pending) ++ [.complete]) := by
  rw [Decoder.feed_append, Decoder.feed_reset_delimiters,
    Decoder.feed_of_isFrameOf (encodeFrame_isFrameOf payload) hroom Decoder.reset_invariant rfl rfl, List.append_assoc]

/-- A poll of a connected channel at a frame boundary delivers the queued frames in arrival order (R211). -/
theorem Channel.poll_of_queuedFrames {cfg : Config} {q : List (Nat × List Byte)}
    (hroom : ∀ f ∈ q, f.2.length ≤ decCap cfg) {c : Channel} (hconn : c.connected = true)
    (hdec : c.dec.release = Decoder.reset) (hrxq : c.rxq = queuedBytes q) :
    c.poll cfg = ⟨c.emptied, q.map Prod.snd⟩ := by
  induction q generalizing c with
  | nil =>
    have hnil : c.rxq = [] := hrxq
    rw [Channel.poll_of_incomplete cfg hconn (by simp [hnil]), hdec, hnil]
    rfl
  | cons f q ih =>
    obtain ⟨hf, hq⟩ := List.forall_mem_cons.1 hroom
    have hfeed := Decoder.feed_reset_frame hf f.1
    have hcompletes : CompletesAtLast (decCap cfg) c.dec.release (List.replicate f.1 delimiter ++ encodeFrame f.2) := by
      rw [hdec]
      exact ⟨_, congrArg Prod.snd hfeed, by simp⟩
    have hrest := ih (c := { c with dec := .holding f.2, rxq := queuedBytes q }) hq hconn rfl rfl
    rw [Channel.poll_of_completes cfg hconn (hrxq.trans (queuedBytes_cons f q)) hcompletes, hdec, hfeed]
    dsimp only
    rw [hrest]
    rfl

/-- Where polling each channel delivers the payloads queued on it, the poll of all of them delivers these by ascending
channel (R210, R213). -/
theorem pollFrom_of_forall₂ {cfg : Config} {cs : List Channel} {queued : List (List (Nat × List Byte))}
    (h : List.Forall₂ (fun c q => c.poll cfg = ⟨c.emptied, q.map Prod.snd⟩) cs queued) (k : Nat) :
    pollFrom cfg k cs =
      ⟨cs.map Channel.emptied, (queued.zipIdx k).flatMap fun p => p.1.map fun f => Delivery.mk p.2 f.2⟩ := by
  induction h generalizing k with
  | nil => rfl
  | cons hpoll _ ih =>
    rw [pollFrom_cons, hpoll, ih, List.zipIdx_cons, List.flatMap_cons, List.map_map]
    rfl

/-- Settles O51: at a frame boundary the release leaves the decoder of reset, from which each queued frame is delivered. -/
theorem pollDeliversQueuedFrames : Obligations.PollDeliversQueuedFrames := by
  intro s queued h
  have hpoll := pollFrom_of_forall₂ (cfg := s.cfg)
    (h.imp fun _ _ ⟨hconn, hinv, hidle, hmax, hrxq⟩ =>
      Channel.poll_of_queuedFrames hmax hconn (Decoder.release_of_idle hinv hidle) hrxq) 0
  refine ⟨_, rfl, congrArg (fun p : PollAll => s.dlv ++ p.deliveries) hpoll, fun c' hc' => ?_⟩
  have hmem : c' ∈ (pollFrom s.cfg 0 s.chans).chans := hc'
  rw [hpoll] at hmem
  obtain ⟨c, -, rfl⟩ := List.mem_map.1 hmem
  exact ⟨rfl, rfl⟩

end Sys2Proof.Machine

/-! PROOFS of the statements about errors (60_exceptions.md). `State.Answered` lists the two ways in which a command is
answered: rejected, or performed with status OK. Every command is answered with `requiredStatus`, and what an error status
leaves is then read off the rejection. -/

namespace Sys2Proof.Machine

open Sys2Proof

/-! One step, by the next input (20_memory.md R61). -/

/-- FTC is idle (R247). -/
theorem step_of_idle {s : State} (h : s.inputs = []) : step s = .next s := by
  simp [step, State.nextInput, h]

/-- A pending reset is taken off the queue and starts a new launch (70_reset_and_hazards.md R260). -/
theorem step_of_reset {s : State} {rest : List Input} (h : s.inputs = .reset :: rest) :
    step s = .next ({ s with inputs := rest } : State).restart := by
  simp [step, State.nextInput, State.taken, h]

/-- A byte on a channel that does not exist is refused (log 5). -/
theorem State.rxArrive_of_none {s : State} {ch : Nat} (h : s.chan? ch = none) (b : Byte) :
    s.rxArrive ch b = .refused (.absentLink ch) := by
  simp [State.rxArrive, h]

/-! A pair that stands for no command (R231). -/

theorem issue_of_not_legal {cmd : Command} (h : ¬ LegalCommand cmd) (s : State) :
    issue cmd s = .next (s.reject .errIllegal) := by
  cases hdec : decode cmd with
  | ok i => exact absurd ((decodeAcceptsLegal cmd).1 ⟨i, hdec⟩) h
  | error e => simp [issue, hdec, State.rejectIllegal]

/-! The required status of a channel command (R232, R234, R235, R237). -/

theorem requiredStatus_of_absent {i : Instr} {n : Nat} {s : State} (hn : namedChannel i = some n) (h : s.nch ≤ n) :
    requiredStatus i s = .errChannel := by
  simp [requiredStatus, hn, h]

/-- On an existing channel only the conditions after ERR_CHANNEL are left. -/
theorem not_absent_of_chan? {s : State} {n : Nat} {c : Channel} (hc : s.chan? n = some c) : ¬ s.nch ≤ n :=
  Nat.not_le.2 ((s.chan?_isSome_iff n).1 ⟨c, hc⟩)

theorem requiredStatus_decAppend {ch : ChannelIx} {s : State} {c : Channel} (hc : s.chan? ch.val = some c) (b : Byte) :
    requiredStatus (.decAppend ch b) s = if c.dec.ready then .errBusy else .ok := by
  simp [requiredStatus, namedChannel, State.readyOn, hc, not_absent_of_chan? hc]

theorem requiredStatus_frameRead {ch : ChannelIx} {s : State} {c : Channel} (hc : s.chan? ch.val = some c) :
    requiredStatus (.frameRead ch) s = if c.dec.ready then .ok else .errNoFrame := by
  simp [requiredStatus, namedChannel, State.readyOn, hc, not_absent_of_chan? hc]

/-- No condition but ERR_CHANNEL is left for the other channel commands. -/
theorem requiredStatus_of_some {i : Instr} {n : Nat} {s : State} {c : Channel} (hn : namedChannel i = some n)
    (hc : s.chan? n = some c) (happend : i.op ≠ .decAppend) (hread : i.op ≠ .frameRead) : requiredStatus i s = .ok := by
  have hpresent := not_absent_of_chan? hc
  cases i with
  | encode | poll | write => cases hn
  | decAppend => exact absurd rfl happend
  | frameRead => exact absurd rfl hread
  | decRelease | tryRead | writeRaw | isConnected | status =>
    cases hn
    simp [requiredStatus, namedChannel, hpresent]

/-! How a command is answered (30_encoding.md R79, R80). -/

/-- From `s`, a command is answered with the status `st` and leaves the state given last: an error status is a rejection;
OK comes behind whatever the command did to the rest of the state. -/
inductive State.Answered (s : State) : Status → State → Prop where
  | rejected {st : Status} (hst : st ≠ .ok) : s.Answered st (s.reject st)
  | performed {u : State} (hrsp : u.rsp = s.rsp) (v0 v1 : Word) (data : List Byte) :
      s.Answered .ok (u.answer v0 v1 data)

/-- A command is answered with one response, which has the status. -/
theorem State.Answered.exists_response {s t : State} {st : Status} (h : s.Answered st t) :
    ∃ r, t.rsp = s.rsp ++ [r] ∧ r.status = st := by
  cases h with
  | rejected => exact ⟨_, rfl, rfl⟩
  | performed hrsp v0 v1 data => exact ⟨Response.performed v0 v1 data, by rw [State.answer_rsp, hrsp], rfl⟩

/-- An error status is a rejection (R236). -/
theorem State.Answered.eq_reject {s t : State} {st : Status} (h : s.Answered st t) (hst : st ≠ .ok) : t = s.reject st := by
  cases h with
  | rejected => rfl
  | performed => exact absurd rfl hst

theorem exec_answered_error {i : Instr} {s : State} {st : Status} (hexec : exec i s = .next (s.reject st)) (hst : st ≠ .ok) :
    ∃ t, exec i s = .next t ∧ s.Answered st t :=
  ⟨_, hexec, .rejected hst⟩

theorem exec_answered_ok {i : Instr} {s u : State} {v0 v1 : Word} {data : List Byte}
    (hexec : exec i s = .next (u.answer v0 v1 data)) (hrsp : u.rsp = s.rsp) : ∃ t, exec i s = .next t ∧ s.Answered .ok t :=
  ⟨_, hexec, .performed hrsp v0 v1 data⟩

/-- A channel command with no error condition of its own, on an existing channel. -/
theorem exec_answered_unconditionally {i : Instr} {n : Nat} {s u : State} {c : Channel} {v0 v1 : Word} {data : List Byte}
    (hexec : exec i s = .next (u.answer v0 v1 data)) (hrsp : u.rsp = s.rsp) (hn : namedChannel i = some n)
    (hc : s.chan? n = some c) (happend : i.op ≠ .decAppend) (hread : i.op ≠ .frameRead) :
    ∃ t, exec i s = .next t ∧ s.Answered (requiredStatus i s) t := by
  rw [requiredStatus_of_some hn hc happend hread]
  exact exec_answered_ok hexec hrsp

/-- A command on an existing channel: a held frame stops DEC_APPEND, a missing one FRAME_READ, nothing the others. -/
theorem exec_answered_of_some {i : Instr} {n : Nat} {s : State} {c : Channel} (hn : namedChannel i = some n)
    (hc : s.chan? n = some c) : ∃ t, exec i s = .next t ∧ s.Answered (requiredStatus i s) t := by
  cases i with
  | encode | poll | write => cases hn
  | decAppend ch b =>
    cases hn
    rw [requiredStatus_decAppend hc]
    cases hready : c.dec.ready with
    | true => exact exec_answered_error (exec_decAppend_of_ready hc hready b) (by decide)
    | false => exact exec_answered_ok (exec_decAppend_of_not_ready hc hready b) rfl
  | frameRead ch =>
    cases hn
    rw [requiredStatus_frameRead hc]
    have hexec := exec_frameRead_of_some hc
    cases hready : c.dec.ready with
    | true => exact exec_answered_ok (hexec.trans (by rw [if_pos hready])) rfl
    | false => exact exec_answered_error (hexec.trans (by simp [hready])) (by decide)
  | decRelease ch =>
    cases hn
    exact exec_answered_unconditionally (exec_decRelease_of_some hc) rfl rfl hc nofun nofun
  | tryRead ch =>
    cases hn
    exact exec_answered_unconditionally (exec_tryRead_of_some hc) rfl rfl hc nofun nofun
  | writeRaw ch bs =>
    cases hn
    exact exec_answered_unconditionally (exec_writeRaw_of_some hc bs) rfl rfl hc nofun nofun
  | isConnected ch =>
    cases hn
    exact exec_answered_unconditionally (exec_isConnected_of_some hc) rfl rfl hc nofun nofun
  | status ch =>
    cases hn
    exact exec_answered_unconditionally (exec_status_of_some hc) rfl rfl hc nofun nofun

theorem exec_answered_of_namedChannel {i : Instr} {n : Nat} (hn : namedChannel i = some n) (s : State) :
    ∃ t, exec i s = .next t ∧ s.Answered (requiredStatus i s) t := by
  cases hc : s.chan? n with
  | none =>
    rw [requiredStatus_of_absent hn ((s.chan?_eq_none_iff n).1 hc)]
    exact exec_answered_error (exec_of_absentChannel hn hc) (by decide)
  | some c => exact exec_answered_of_some hn hc

/-- WRITE is never rejected (43_mux.md R215). -/
theorem exec_write (s : State) (bs : List Byte) :
    exec (.write bs) s = .next (({ s with chans := s.chans.map (·.adapterWrite bs) } : State).answer 0 0 []) := rfl

/-- The status of ENCODE (40_codec.md R108). -/
theorem requiredStatus_encode (payload : List Byte) (s : State) :
    requiredStatus (.encode payload) s = if s.cfg.nMax < payload.length then .errLength else .ok := rfl

/-- Every decoded command is answered with the status it requires. -/
theorem exec_answered (i : Instr) (s : State) : ∃ t, exec i s = .next t ∧ s.Answered (requiredStatus i s) t := by
  cases i with
  | encode payload =>
    rw [requiredStatus_encode]
    split
    · next hlong => exact exec_answered_error (exec_encode_of_lt hlong) (by decide)
    · next hfits => exact exec_answered_ok (exec_encode_of_le (Nat.not_lt.1 hfits)) rfl
  | poll => exact exec_answered_ok (exec_poll s) rfl
  | write bs => exact exec_answered_ok (exec_write s bs) rfl
  | decAppend | decRelease | tryRead | frameRead | writeRaw | isConnected | status =>
    exact exec_answered_of_namedChannel rfl s

/-- Every pair (W, D) is answered, ERR_ILLEGAL before any other status (R237). -/
theorem issue_answered (cmd : Command) (s : State) : ∃ t st, issue cmd s = .next t ∧ s.Answered st t ∧
    ((¬ LegalCommand cmd ∧ st = .errIllegal) ∨ (LegalCommand cmd ∧ ∃ i, decode cmd = .ok i ∧ st = requiredStatus i s)) := by
  by_cases hlegal : LegalCommand cmd
  · obtain ⟨i, hdec⟩ := (decodeAcceptsLegal cmd).2 hlegal
    obtain ⟨t, hexec, hanswered⟩ := exec_answered i s
    exact ⟨t, _, (issue_of_decode hdec s).trans hexec, hanswered, .inr ⟨hlegal, i, hdec, rfl⟩⟩
  · exact ⟨_, _, issue_of_not_legal hlegal s, .rejected (by decide), .inl ⟨hlegal, rfl⟩⟩

/-! The statements. -/

/-- Settles O54: the one response of the answer has the status that the pair requires. -/
theorem statusPrecedence : Obligations.StatusPrecedence := by
  refine ⟨⟨rfl, rfl, rfl, rfl, rfl, rfl⟩, fun cmd s => ?_⟩
  obtain ⟨t, st, hissue, hanswered, hst⟩ := issue_answered cmd s
  obtain ⟨r, hrsp, rfl⟩ := hanswered.exists_response
  exact ⟨t, r, hissue, hrsp, hst⟩

/-- Settles O55: the response is the answer's, and an answer with an error status is a rejection. -/
theorem errorsChangeNothing : Obligations.ErrorsChangeNothing := by
  intro cmd s t r hissue hrsp hr
  obtain ⟨t', st, hissue', hanswered, -⟩ := issue_answered cmd s
  cases hissue'.symm.trans hissue
  obtain ⟨r', hrsp', rfl⟩ := hanswered.exists_response
  obtain rfl : r' = r := List.singleton_inj.1 (List.append_cancel_left (hrsp'.symm.trans hrsp))
  exact hanswered.eq_reject hr

/-- Settles O9: such a pair does not decode, and is rejected. -/
theorem illegalCommandAnswered : Obligations.IllegalCommandAnswered :=
  ⟨rfl, fun s _ hillegal => issue_of_not_legal hillegal s⟩

/-- Settles O11: no input is pending, so none is performed. -/
theorem idleHoldsState : Obligations.IdleHoldsState := fun _ => step_of_idle

/-- Settles O13: every command is answered and a reset restarts; a byte arrives where its channel exists. -/
theorem stepStopsOnlyOnAbsentLink : Obligations.StepStopsOnlyOnAbsentLink := by
  intro s
  cases hinputs : s.inputs with
  | nil => exact .inl ⟨s, step_of_idle hinputs⟩
  | cons input rest =>
    cases input with
    | command cmd =>
      obtain ⟨t, -, hissue, -⟩ := issue_answered cmd { s with inputs := rest }
      exact .inl ⟨t, (step_of_command hinputs).trans hissue⟩
    | reset => exact .inl ⟨_, step_of_reset hinputs⟩
    | rxArrive ch b =>
      cases hc : s.chan? ch with
      | some c => exact .inl ⟨_, (step_of_rxArrive hinputs).trans (State.rxArrive_of_some (s := { s with inputs := rest }) hc b)⟩
      | none =>
        exact .inr ⟨ch, b, rest, rfl, (s.chan?_eq_none_iff ch).1 hc,
          (step_of_rxArrive hinputs).trans (State.rxArrive_of_none (s := { s with inputs := rest }) hc b)⟩

/-- Settles O53: the command is rejected before it looks at anything else. -/
theorem absentChannelAnswered : Obligations.AbsentChannelAnswered :=
  ⟨rfl, fun _ n s hn habsent => exec_of_absentChannel hn ((s.chan?_eq_none_iff n).2 habsent)⟩

end Sys2Proof.Machine

/-! PROOFS of the statements about reset (70_reset_and_hazards.md R260 to R263). A reset while running is construction again,
so the state of a launch is its own restart, and what holds after a restart holds at the launch. -/

namespace Sys2Proof.Machine

open Sys2Proof

/-! The state of a launch (R261). -/

/-- A reset right after reset changes nothing. -/
theorem State.restart_resetOf (cfg : Config) : (State.resetOf cfg).restart = State.resetOf cfg := rfl

/-- There is one channel per entry of the Channel Set. -/
theorem State.nch_resetOf (cfg : Config) : (State.resetOf cfg).nch = cfg.channels.length :=
  List.length_map _

/-- Each channel is the one constructed for its entry of the Channel Set. -/
theorem State.chan?_resetOf {cfg : Config} {ch : Nat} {spec : ChannelSpec} (h : cfg.channels[ch]? = some spec) :
    (State.resetOf cfg).chan? ch = some (Channel.construct cfg spec) := by
  simp [State.chan?, h]

/-! The status word after reset (R262; 10_state.md R38). -/

/-- Only CONNECTED is set on a wired channel with an empty decoder. -/
theorem Channel.statusWord_of_wired {c : Channel} (hdec : c.dec = Decoder.reset) (hadapter : c.adapter = .wired) :
    c.statusWord = 0x00000002#32 := by
  simp only [Channel.statusWord, Channel.connected, hdec, hadapter]
  decide

/-- Only KIND and SEL, at bit 5, are not 0 with an empty decoder in INITIAL: the eight selectors are tried one by one. -/
theorem Channel.statusWord_of_initial {c : Channel} {sel : Selector} (hdec : c.dec = Decoder.reset)
    (hadapter : c.adapter = .wireless .initial sel) :
    c.statusWord = 0x00000001#32 + 32#32 * BitVec.ofNat 32 sel.val := by
  simp only [Channel.statusWord, Channel.connected, hdec, hadapter]
  clear hadapter
  revert sel
  decide

/-! The statements. -/

/-- Settles O12: the restart looks at the parameters and keeps the later inputs. -/
theorem resetStartsNewLaunch : Obligations.ResetStartsNewLaunch := fun _ _ => step_of_reset

/-- Settles O14: each channel is a constructed one, whose fields are read off by its kind. -/
theorem resetValues : Obligations.ResetValues := by
  intro cfg
  refine ⟨State.resetOf_dlv cfg, State.nch_resetOf cfg, fun ch spec hspec =>
    ⟨Channel.construct cfg spec, State.chan?_resetOf hspec, rfl, rfl, rfl, rfl, rfl, rfl, rfl, rfl, ?_⟩⟩
  cases spec with
  | wired => exact ⟨rfl, rfl, rfl, Channel.statusWord_of_wired rfl rfl⟩
  | wireless desiredBaud => exact ⟨rfl, rfl, rfl, Channel.statusWord_of_initial rfl rfl⟩

/-- Settles O15: a restart establishes both invariants, and the launch is its own restart. -/
theorem resetMeetsInvariants : Obligations.ResetMeetsInvariants := by
  intro cfg hcfg
  rw [← State.restart_resetOf cfg]
  exact ⟨State.restart_invariant hcfg, State.restart_sentRight _⟩

end Sys2Proof.Machine
